-- ==== Sys2Proof/Word.lean ====
section
/-! DEFINITION. The word types of the two machines and their register numbers.

00_scope.md R6: RVL32 has 32 registers of 32 bits and 32-bit instructions, V16 has 16 registers of
16 bits and 16-bit instructions. R8: every register value is a bit vector of that width. -/

namespace Sys2Proof

/-- One byte: the smallest addressable unit of both machines (20_memory.md R50). -/
abbrev Byte := BitVec 8

/-- An RVL32 register, address or instruction word (10_state.md R20, 30_encoding.md R80). -/
abbrev Word32 := BitVec 32

/-- A V16 register, address or instruction word (10_state.md R37, 30_encoding.md R100). -/
abbrev Word16 := BitVec 16

/-- An RVL32 register number, x0 to x31 (10_state.md R20). -/
abbrev Reg32 := Fin 32

/-- A V16 register number, x0 to x15 (10_state.md R36). -/
abbrev Reg16 := Fin 16

/-- The two separate machines of 00_scope.md R1. -/
inductive Isa where
  | rvl32
  | v16
deriving DecidableEq, Repr

end Sys2Proof
end

