-- ==== Sys2Proof/Machine/Flags.lean ====
section
/-! DEFINITION. Conditions. Neither machine has a flag (10_state.md R27): a comparison decides a branch or an
IFxxx, or writes 0 or 1 to a register. -/

namespace Sys2Proof.Machine

/-- The six comparisons of the branches and of IFxxx. -/
inductive Cond where
  | eq | ne | lt | ge | ltu | geu
deriving DecidableEq, Repr

/-- Whether a comparison holds, its first operand the register of the `rd` field (41_branches.md R142 to R147,
49_v16_control_memory.md R273 to R278). -/
def Cond.holds {n : Nat} (c : Cond) (a b : BitVec n) : Bool :=
  match c with
  | .eq => decide (a = b)
  | .ne => decide (a ≠ b)
  | .lt => decide (a.toInt < b.toInt)
  | .ge => decide (b.toInt ≤ a.toInt)
  | .ltu => decide (a.toNat < b.toNat)
  | .geu => decide (b.toNat ≤ a.toNat)

/-- The value 1 or 0 of a set-less-than instruction (43_op_imm.md R167, R168; 44_op.md R184, R185). -/
def boolWord (n : Nat) (b : Bool) : BitVec n := if b then 1#n else 0#n

end Sys2Proof.Machine
end

