-- ==== Sys2Proof/Config.lean ====
section
/-! DEFINITION. What the platform fixes (00_scope.md R6, 10_state.md R46), as types of plain data, and
the free values of the model. The baseline values stand in Machine/Platform.lean. -/

namespace Sys2Proof

/-- `unspecified_N()` of 00_scope.md R9: "a model draws it freely at each use and assumes nothing of
it". The `draw`-th draw of the machine whose registers have `xlen` bits, as a value of `width` bits.
It has no body, so nothing can be proved of a value it gives (log 8, DESIGN CHOICE, safe). -/
opaque Config.unspecified (xlen draw width : Nat) : BitVec width

/-- The kinds of access of 20_memory.md R55. -/
inductive AccessKind where
  | fetch
  | load
  | store
deriving DecidableEq, Repr

/-- `MISALIGNED_POLICY` of 20_memory.md R54. -/
inductive MisalignedPolicy where
  | fault
  | bytewise
deriving DecidableEq, Repr

/-- `SMC_POLICY` of 20_memory.md R62. -/
inductive SmcPolicy where
  | refuse
  | coherent
deriving DecidableEq, Repr

/-- One entry of the memory map: an access of `kind` to `width` bytes is valid when it starts at an
address from `first` to `last`. A list of windows can say any predicate
`mem_valid(addr, n, kind)` of 20_memory.md R55 (log 6). -/
structure Window where
  kind : AccessKind
  width : Nat
  first : Nat
  last : Nat
deriving DecidableEq, Repr

/-- The byte addresses from `first` to `last`, both included. -/
structure AddrRange where
  first : Nat
  last : Nat
deriving DecidableEq, Repr

/-- The parameters of one machine's memory system: `mem_valid` (20_memory.md R55), the device
addresses (R59), `MISALIGNED_POLICY` (R54) and `SMC_POLICY` (R62). No step changes them (log 16). -/
structure Platform where
  windows : List Window
  devices : List AddrRange
  misaligned : MisalignedPolicy
  smc : SmcPolicy
deriving DecidableEq, Repr

/-- A function of a platform's CSRs as plain data (log 12): of the 32-bit values the CSRs hold and, in
a write effect, of the value written. Tests for equality with constants make every function of
finitely many words a term. -/
inductive CsrExpr where
  /-- What the CSR with that index holds. -/
  | held (index : BitVec 6)
  /-- The value an instruction writes; zero in a read function. -/
  | written
  | const (v : Word32)
  | not (a : CsrExpr)
  | and (a b : CsrExpr)
  | or (a b : CsrExpr)
  | add (a b : CsrExpr)
  /-- `yes` where `a` and `b` are equal, else `no`. -/
  | ifEq (a b yes no : CsrExpr)
deriving DecidableEq, Repr

/-- What the platform has at one CSR index (10_state.md R30, R31; 93_implementation_defined.md U10;
log 12). In a start state's parameters the value held is the CSR's reset value. -/
inductive CsrCell where
  /-- `csr_exists` is false. -/
  | absent
  /-- Plain storage, the form of the examples of 45_misc_mem_system.md R201 to R206. -/
  | storage (v : Word32)
  /-- A CSR whose read value function and write effect the platform supplies: the effect gives new
  values to the CSRs it lists, all from what the CSRs held before; the first entry of a CSR counts. -/
  | supplied (v : Word32) (read : CsrExpr) (effect : List (BitVec 6 × CsrExpr))
  /-- A CSR of which nothing is said: a read gives a free value, and the accesses are handed to the
  platform. -/
  | external
deriving DecidableEq, Repr

/-- The start state's parameters of one machine (10_state.md R34, R45, R46): `RESET_PC`, the register
values the spec leaves unspecified at reset, the memory image, and the memory system. -/
structure MachineParams (n : Nat) where
  resetPc : BitVec n
  regs : Vector (BitVec n) n
  image : List (Nat × Byte)
  platform : Platform
deriving DecidableEq, Repr

/-- Every parameter of 00_scope.md R6 that a model takes as an argument, but `END_OF_RUN`, which
belongs to a theorem (70_reset_and_hazards.md R337). `wake` lists the values the environment input
has in the coming steps that read it (log 11). -/
structure Params where
  isa : Isa
  rvl32 : MachineParams 32
  csrs : Vector CsrCell 64
  wake : List Bool
  v16 : MachineParams 16
  imm3Signed : Bool
  lowIo : Bool
deriving DecidableEq, Repr

end Sys2Proof
end

