-- ==== Sys2Proof/Syntax.lean ====
section
/-! DEFINITION. The instructions: one constructor per row of spec/opcode_table.json, the 56 rows of
RVL32 (30_encoding.md R87), the 25 rows of V16 (R103, R104) and the seven FREE patterns of V16 (R110).

The operand names are the fields' names. In stores and branches, and in V16 stores and IFxxx, `rd`
names a register that is read (00_scope.md R12). -/

namespace Sys2Proof

/-- An instruction of either machine, by its fields. RVL32 constructors carry the table's mnemonic,
V16 constructors the prefix `v16`. -/
inductive Instr where
  -- Upper immediates and jumps (40_upper_and_jumps.md)
  | lui (rd : Reg32) (imm20 : BitVec 20)
  | auipc (rd : Reg32) (imm20 : BitVec 20)
  | jal (rd : Reg32) (imm20 : BitVec 20)
  | jalr (rd rs1 : Reg32) (imm12 : BitVec 12)
  -- Branches (41_branches.md): `rd` names the first register compared
  | beq (rd rs1 : Reg32) (imm12 : BitVec 12)
  | bne (rd rs1 : Reg32) (imm12 : BitVec 12)
  | blt (rd rs1 : Reg32) (imm12 : BitVec 12)
  | bge (rd rs1 : Reg32) (imm12 : BitVec 12)
  | bltu (rd rs1 : Reg32) (imm12 : BitVec 12)
  | bgeu (rd rs1 : Reg32) (imm12 : BitVec 12)
  -- Loads (42_loads_stores.md)
  | lb (rd rs1 : Reg32) (imm12 : BitVec 12)
  | lh (rd rs1 : Reg32) (imm12 : BitVec 12)
  | lw (rd rs1 : Reg32) (imm12 : BitVec 12)
  | lbu (rd rs1 : Reg32) (imm12 : BitVec 12)
  | lhu (rd rs1 : Reg32) (imm12 : BitVec 12)
  -- Stores (42_loads_stores.md): `rd` names the register whose value is stored
  | sb (rd rs1 : Reg32) (imm12 : BitVec 12)
  | sh (rd rs1 : Reg32) (imm12 : BitVec 12)
  | sw (rd rs1 : Reg32) (imm12 : BitVec 12)
  -- Register-immediate (43_op_imm.md)
  | addi (rd rs1 : Reg32) (imm12 : BitVec 12)
  | slti (rd rs1 : Reg32) (imm12 : BitVec 12)
  | sltiu (rd rs1 : Reg32) (imm12 : BitVec 12)
  | xori (rd rs1 : Reg32) (imm12 : BitVec 12)
  | ori (rd rs1 : Reg32) (imm12 : BitVec 12)
  | andi (rd rs1 : Reg32) (imm12 : BitVec 12)
  | slli (rd rs1 : Reg32) (imm5 : BitVec 5)
  | srli (rd rs1 : Reg32) (imm5 : BitVec 5)
  | srai (rd rs1 : Reg32) (imm5 : BitVec 5)
  -- Register-register (44_op.md)
  | add (rd rs1 rs2 : Reg32)
  | sub (rd rs1 rs2 : Reg32)
  | sll (rd rs1 rs2 : Reg32)
  | slt (rd rs1 rs2 : Reg32)
  | sltu (rd rs1 rs2 : Reg32)
  | xor (rd rs1 rs2 : Reg32)
  | srl (rd rs1 rs2 : Reg32)
  | sra (rd rs1 rs2 : Reg32)
  | or (rd rs1 rs2 : Reg32)
  | and (rd rs1 rs2 : Reg32)
  -- MISC-MEM and SYSTEM (45_misc_mem_system.md); FENCE and FENCE.I keep
  -- the bits w[31:15] and w[11:7] that select nothing, for the fault's payload (log 17)
  | fence (hi : BitVec 17) (mid : BitVec 5)
  | fenceI (hi : BitVec 17) (mid : BitVec 5)
  | ecall
  | ebreak
  | wfi
  | csrrw (rd rs1 : Reg32) (csr : BitVec 6)
  | csrrs (rd rs1 : Reg32) (csr : BitVec 6)
  | csrrc (rd rs1 : Reg32) (csr : BitVec 6)
  | csrrwi (rd : Reg32) (imm5 : BitVec 5) (csr : BitVec 6)
  | csrrsi (rd : Reg32) (imm5 : BitVec 5) (csr : BitVec 6)
  | csrrci (rd : Reg32) (imm5 : BitVec 5) (csr : BitVec 6)
  -- Multiply and divide (46_muldiv.md)
  | mul (rd rs1 rs2 : Reg32)
  | mulh (rd rs1 rs2 : Reg32)
  | mulhsu (rd rs1 rs2 : Reg32)
  | mulhu (rd rs1 rs2 : Reg32)
  | div (rd rs1 rs2 : Reg32)
  | divu (rd rs1 rs2 : Reg32)
  | rem (rd rs1 rs2 : Reg32)
  | remu (rd rs1 rs2 : Reg32)
  -- V16 arithmetic, logic, shifts and constants (48_v16_alu.md)
  | v16And (rd rs1 rs2 : Reg16)
  | v16Or (rd rs1 rs2 : Reg16)
  | v16Xor (rd rs1 rs2 : Reg16)
  | v16Not (rd rs1 : Reg16)
  | v16Srl (rd rs1 rs2 : Reg16)
  | v16Sra (rd rs1 rs2 : Reg16)
  | v16Swp (rd rs1 : Reg16)
  | v16Add (rd rs1 rs2 : Reg16)
  | v16Sub (rd rs1 rs2 : Reg16)
  | v16Jal (rd : Reg16) (imm8 : BitVec 8)
  | v16Li (rd : Reg16) (imm8 : BitVec 8)
  | v16Lui (rd : Reg16) (imm8 : BitVec 8)
  | v16Auipc (rd : Reg16) (imm8 : BitVec 8)
  | v16Lw (rd rs1 : Reg16) (imm4 : BitVec 4)
  | v16Sw (rd rs1 : Reg16) (imm4 : BitVec 4)
  | v16Lb (rd rs1 : Reg16) (imm4 : BitVec 4)
  | v16Sb (rd rs1 : Reg16) (imm4 : BitVec 4)
  | v16Jalr (rd rs1 : Reg16)
  | v16IfEq (rd rs1 : Reg16)
  | v16IfNe (rd rs1 : Reg16)
  | v16IfLt (rd rs1 : Reg16)
  | v16IfGe (rd rs1 : Reg16)
  | v16IfLtu (rd rs1 : Reg16)
  | v16IfGeu (rd rs1 : Reg16)
  | v16Addi (rd rs1 : Reg16) (imm3 : BitVec 3)
  -- V16 FREE patterns (30_encoding.md R110): reserved words that decode to no operation (log 18)
  | v16Free0 (rd rs1 : Reg16)
  | v16Free1 (rd rs1 : Reg16)
  | v16Free3 (rd rs1 : Reg16)
  | v16Free8 (imm8 : BitVec 8)
  | v16Free9 (imm8 : BitVec 8)
  | v16Free10 (imm8 : BitVec 8)
  | v16Free15 (rd rs1 : Reg16)
deriving DecidableEq, Repr

/-- The machine an instruction belongs to (00_scope.md R1). -/
def Instr.isa : Instr → Isa
  | .lui _ _ | .auipc _ _ | .jal _ _ | .jalr _ _ _ | .beq _ _ _ | .bne _ _ _ | .blt _ _ _ | .bge _ _ _
  | .bltu _ _ _ | .bgeu _ _ _ | .lb _ _ _ | .lh _ _ _ | .lw _ _ _ | .lbu _ _ _ | .lhu _ _ _ | .sb _ _ _
  | .sh _ _ _ | .sw _ _ _ | .addi _ _ _ | .slti _ _ _ | .sltiu _ _ _ | .xori _ _ _ | .ori _ _ _
  | .andi _ _ _ | .slli _ _ _ | .srli _ _ _ | .srai _ _ _ | .add _ _ _ | .sub _ _ _ | .sll _ _ _
  | .slt _ _ _ | .sltu _ _ _ | .xor _ _ _ | .srl _ _ _ | .sra _ _ _ | .or _ _ _ | .and _ _ _
  | .fence _ _ | .fenceI _ _ | .ecall | .ebreak | .wfi | .csrrw _ _ _
  | .csrrs _ _ _ | .csrrc _ _ _ | .csrrwi _ _ _ | .csrrsi _ _ _ | .csrrci _ _ _ | .mul _ _ _
  | .mulh _ _ _ | .mulhsu _ _ _ | .mulhu _ _ _ | .div _ _ _ | .divu _ _ _ | .rem _ _ _ | .remu _ _ _ => .rvl32
  | .v16And _ _ _ | .v16Or _ _ _ | .v16Xor _ _ _ | .v16Not _ _ | .v16Srl _ _ _ | .v16Sra _ _ _
  | .v16Swp _ _ | .v16Add _ _ _ | .v16Sub _ _ _ | .v16Jal _ _ | .v16Li _ _ | .v16Lui _ _ | .v16Auipc _ _
  | .v16Lw _ _ _ | .v16Sw _ _ _ | .v16Lb _ _ _ | .v16Sb _ _ _ | .v16Jalr _ _ | .v16IfEq _ _
  | .v16IfNe _ _ | .v16IfLt _ _ | .v16IfGe _ _ | .v16IfLtu _ _ | .v16IfGeu _ _ | .v16Addi _ _ _
  | .v16Free0 _ _ | .v16Free1 _ _ | .v16Free3 _ _ | .v16Free8 _ | .v16Free9 _ | .v16Free10 _
  | .v16Free15 _ _ => .v16

end Sys2Proof
end

