-- ==== Sys2Proof/WellFormed.lean ====
section
/-! DEFINITION. Which terms of `Instr` an instruction word can hold.

Every RVL32 term is well-formed: its fields' widths say all (30_encoding.md R87, R88;
the CSR number is the six-bit index, the upper six bits of its field being zero). In V16 the field value 0 selects another row of the
table (R106, R110, R111): AND, OR, XOR, SRL and SRA need an `rs2` field that is not 0, LI, LUI and
AUIPC an `rd` field that is not 0. -/

namespace Sys2Proof

/-- True when some instruction word holds the term (30_encoding.md R106). -/
def Instr.wellFormed : Instr → Bool
  | .lui _ _ | .auipc _ _ | .jal _ _ | .jalr _ _ _ | .beq _ _ _ | .bne _ _ _ | .blt _ _ _ | .bge _ _ _
  | .bltu _ _ _ | .bgeu _ _ _ | .lb _ _ _ | .lh _ _ _ | .lw _ _ _ | .lbu _ _ _ | .lhu _ _ _ | .sb _ _ _
  | .sh _ _ _ | .sw _ _ _ | .addi _ _ _ | .slti _ _ _ | .sltiu _ _ _ | .xori _ _ _ | .ori _ _ _
  | .andi _ _ _ | .slli _ _ _ | .srli _ _ _ | .srai _ _ _ | .add _ _ _ | .sub _ _ _ | .sll _ _ _
  | .slt _ _ _ | .sltu _ _ _ | .xor _ _ _ | .srl _ _ _ | .sra _ _ _ | .or _ _ _ | .and _ _ _
  | .fence _ _ | .fenceI _ _ | .ecall | .ebreak | .wfi | .csrrw _ _ _
  | .csrrs _ _ _ | .csrrc _ _ _ | .csrrwi _ _ _ | .csrrsi _ _ _ | .csrrci _ _ _ | .mul _ _ _
  | .mulh _ _ _ | .mulhsu _ _ _ | .mulhu _ _ _ | .div _ _ _ | .divu _ _ _ | .rem _ _ _ | .remu _ _ _
  | .v16Not _ _ | .v16Swp _ _ | .v16Add _ _ _ | .v16Sub _ _ _ | .v16Jal _ _ | .v16Lw _ _ _ | .v16Sw _ _ _
  | .v16Lb _ _ _ | .v16Sb _ _ _ | .v16Jalr _ _ | .v16IfEq _ _ | .v16IfNe _ _ | .v16IfLt _ _
  | .v16IfGe _ _ | .v16IfLtu _ _ | .v16IfGeu _ _ | .v16Addi _ _ _ | .v16Free0 _ _ | .v16Free1 _ _
  | .v16Free3 _ _ | .v16Free8 _ | .v16Free9 _ | .v16Free10 _ | .v16Free15 _ _ => true
  | .v16And _ _ rs2 | .v16Or _ _ rs2 | .v16Xor _ _ rs2 | .v16Srl _ _ rs2 | .v16Sra _ _ rs2 => rs2 != 0
  | .v16Li rd _ | .v16Lui rd _ | .v16Auipc rd _ => rd != 0

/-- `Instr.wellFormed` as a proposition. -/
abbrev Instr.WellFormed (i : Instr) : Prop := i.wellFormed = true

end Sys2Proof
end

