-- ==== Sys2Proof/Decode.lean ====
section
/-! DEFINITION. Decoding and encoding: the formats of 30_encoding.md R81 to R85 and R101, the opcode map R86,
the decode order R90 and R106, the reserved words R95 by name, and the encoder written from the same tables. -/

namespace Sys2Proof

/-- The names of the RVL32 opcode map (30_encoding.md R86), used and reserved, for `w[6:2]` with `w[1:0] = 11`. -/
inductive Major where
  | load | loadFp | custom0 | miscMem | opImm | auipc | opImm32 | slot48a
  | store | storeFp | custom1 | amo | op | lui | op32 | slot64
  | madd | msub | nmsub | nmadd | opFp | reserved1010111 | custom2 | slot48b
  | branch | jalr | reserved1101011 | jal | system | reserved1110111 | custom3 | slot80
deriving DecidableEq, Repr

/-- Why a word is no instruction: the rows of the RVL32 table of reserved encodings
(30_encoding.md R95), and bytes too few to hold a word. Every RVL32 word so rejected raises
`Fault.illegalInstruction` when a step meets it (R303). -/
inductive Reserved where
  /-- `w[1:0]` is not 11 (R80). -/
  | lowBits
  /-- A major opcode that R86 marks reserved. -/
  | majorOpcode (m : Major)
  /-- JALR with func3 other than 000. -/
  | jalrFunc3
  /-- BRANCH with func3 010 or 011. -/
  | branchFunc3
  /-- LOAD with func3 011, 110 or 111. -/
  | loadFunc3
  /-- STORE with func3 011 to 111. -/
  | storeFunc3
  /-- OP-IMM func3 001 with func7 other than 0000000. -/
  | shiftLeftFunc7
  /-- OP-IMM func3 101 with func7 neither 0000000 nor 0100000. -/
  | shiftRightFunc7
  /-- OP with func7 none of 0000000, 0100000, 0000001. -/
  | opFunc7
  /-- OP with func7 0100000 and func3 neither 000 nor 101. -/
  | opFunc3
  /-- MISC-MEM with func3 010 or more. -/
  | miscMemFunc3
  /-- SYSTEM func3 000 other than ECALL, EBREAK and WFI. -/
  | systemWord
  /-- SYSTEM func3 100 (45_misc_mem_system.md R207). -/
  | systemFunc3
  /-- A CSR instruction with `w[31:26]` not 000000 (R200). -/
  | csrUpperBits
  /-- Fewer bytes than the machine's instruction length (R80, R100): no word at all. -/
  | truncated
deriving DecidableEq, Repr

/-- An instruction word of either machine (30_encoding.md R80, R100). -/
inductive CodeWord where
  | rvl32 (w : Word32)
  | v16 (w : Word16)
deriving DecidableEq, Repr

/-- The machine whose instruction length a word has. -/
def CodeWord.isa : CodeWord → Isa
  | .rvl32 _ => .rvl32
  | .v16 _ => .v16

/-- The word as a number, its bit 0 the least significant. -/
def CodeWord.toNat : CodeWord → Nat
  | .rvl32 w => w.toNat
  | .v16 w => w.toNat

/-! ### RVL32 -/

/-- The opcode map: `w[6:2]` to its name (30_encoding.md R86). -/
def majorOf (b : BitVec 5) : Major :=
  match b.toNat with
  | 0 => .load | 1 => .loadFp | 2 => .custom0 | 3 => .miscMem
  | 4 => .opImm | 5 => .auipc | 6 => .opImm32 | 7 => .slot48a
  | 8 => .store | 9 => .storeFp | 10 => .custom1 | 11 => .amo
  | 12 => .op | 13 => .lui | 14 => .op32 | 15 => .slot64
  | 16 => .madd | 17 => .msub | 18 => .nmsub | 19 => .nmadd
  | 20 => .opFp | 21 => .reserved1010111 | 22 => .custom2 | 23 => .slot48b
  | 24 => .branch | 25 => .jalr | 26 => .reserved1101011 | 27 => .jal
  | 28 => .system | 29 => .reserved1110111 | 30 => .custom3 | _ => .slot80

/-- The register field whose lowest bit is `lo` (30_encoding.md R81: rd 7, rs1 15, rs2 20). -/
def regField32 (w : Word32) (lo : Nat) : Reg32 := ⟨(w.extractLsb' lo 5).toNat, (w.extractLsb' lo 5).isLt⟩

/-- BRANCH by func3 (30_encoding.md R87, rows 5 to 10). -/
def decodeBranch (func3 : BitVec 3) (rd rs1 : Reg32) (imm12 : BitVec 12) : Except Reserved Instr :=
  match func3.toNat with
  | 0 => .ok (.beq rd rs1 imm12)
  | 1 => .ok (.bne rd rs1 imm12)
  | 4 => .ok (.blt rd rs1 imm12)
  | 5 => .ok (.bge rd rs1 imm12)
  | 6 => .ok (.bltu rd rs1 imm12)
  | 7 => .ok (.bgeu rd rs1 imm12)
  | _ => .error .branchFunc3

/-- LOAD by func3 (30_encoding.md R87, rows 11 to 15). -/
def decodeLoad (func3 : BitVec 3) (rd rs1 : Reg32) (imm12 : BitVec 12) : Except Reserved Instr :=
  match func3.toNat with
  | 0 => .ok (.lb rd rs1 imm12)
  | 1 => .ok (.lh rd rs1 imm12)
  | 2 => .ok (.lw rd rs1 imm12)
  | 4 => .ok (.lbu rd rs1 imm12)
  | 5 => .ok (.lhu rd rs1 imm12)
  | _ => .error .loadFunc3

/-- STORE by func3 (30_encoding.md R87, rows 16 to 18; SB is a STORE, 90_conflicts.md C2). -/
def decodeStore (func3 : BitVec 3) (rd rs1 : Reg32) (imm12 : BitVec 12) : Except Reserved Instr :=
  match func3.toNat with
  | 0 => .ok (.sb rd rs1 imm12)
  | 1 => .ok (.sh rd rs1 imm12)
  | 2 => .ok (.sw rd rs1 imm12)
  | _ => .error .storeFunc3

/-- OP-IMM by func3, the shifts by func7 (30_encoding.md R87, rows 19 to 27; R90 step 5). -/
def decodeOpImm (func3 : BitVec 3) (func7 : BitVec 7) (rd rs1 : Reg32) (imm12 : BitVec 12)
    (imm5 : BitVec 5) : Except Reserved Instr :=
  match func3.toNat with
  | 0 => .ok (.addi rd rs1 imm12)
  | 1 => if func7 = 0b0000000#7 then .ok (.slli rd rs1 imm5) else .error .shiftLeftFunc7
  | 2 => .ok (.slti rd rs1 imm12)
  | 3 => .ok (.sltiu rd rs1 imm12)
  | 4 => .ok (.xori rd rs1 imm12)
  | 5 =>
    if func7 = 0b0000000#7 then .ok (.srli rd rs1 imm5)
    else if func7 = 0b0100000#7 then .ok (.srai rd rs1 imm5)
    else .error .shiftRightFunc7
  | 6 => .ok (.ori rd rs1 imm12)
  | _ => .ok (.andi rd rs1 imm12)

/-- OP with func7 0000000 by func3 (30_encoding.md R87, rows 28 to 37). -/
def decodeOpBase (func3 : BitVec 3) (rd rs1 rs2 : Reg32) : Instr :=
  match func3.toNat with
  | 0 => .add rd rs1 rs2
  | 1 => .sll rd rs1 rs2
  | 2 => .slt rd rs1 rs2
  | 3 => .sltu rd rs1 rs2
  | 4 => .xor rd rs1 rs2
  | 5 => .srl rd rs1 rs2
  | 6 => .or rd rs1 rs2
  | _ => .and rd rs1 rs2

/-- OP with func7 0000001 by func3 (30_encoding.md R87, rows 49 to 56). -/
def decodeMulDiv (func3 : BitVec 3) (rd rs1 rs2 : Reg32) : Instr :=
  match func3.toNat with
  | 0 => .mul rd rs1 rs2
  | 1 => .mulh rd rs1 rs2
  | 2 => .mulhsu rd rs1 rs2
  | 3 => .mulhu rd rs1 rs2
  | 4 => .div rd rs1 rs2
  | 5 => .divu rd rs1 rs2
  | 6 => .rem rd rs1 rs2
  | _ => .remu rd rs1 rs2

/-- OP by the pair func7, func3 (30_encoding.md R90 step 6). -/
def decodeOp (func7 : BitVec 7) (func3 : BitVec 3) (rd rs1 rs2 : Reg32) : Except Reserved Instr :=
  if func7 = 0b0000000#7 then .ok (decodeOpBase func3 rd rs1 rs2)
  else if func7 = 0b0000001#7 then .ok (decodeMulDiv func3 rd rs1 rs2)
  else if func7 = 0b0100000#7 then
    match func3.toNat with
    | 0 => .ok (.sub rd rs1 rs2)
    | 5 => .ok (.sra rd rs1 rs2)
    | _ => .error .opFunc3
  else .error .opFunc7

/-- MISC-MEM by func3; no other bit selects (30_encoding.md R90 step 9). -/
def decodeMiscMem (func3 : BitVec 3) (hi : BitVec 17) (mid : BitVec 5) : Except Reserved Instr :=
  match func3.toNat with
  | 0 => .ok (.fence hi mid)
  | 1 => .ok (.fenceI hi mid)
  | _ => .error .miscMemFunc3

/-- SYSTEM with func3 000: the whole word decides (30_encoding.md R90 step 7). -/
def decodeSystemWord (w : Word32) : Except Reserved Instr :=
  if w = 0x10500073#32 then .ok .wfi
  else if w = 0x00000073#32 then .ok .ecall
  else if w = 0x00100073#32 then .ok .ebreak
  else .error .systemWord

/-- The CSR instructions by func3; `w[31:26]` must be zero (30_encoding.md R90 step 8, R88). -/
def decodeCsr (func3 : BitVec 3) (upper csr : BitVec 6) (rd rs1 : Reg32) (imm5 : BitVec 5) :
    Except Reserved Instr :=
  if upper = 0b000000#6 then
    match func3.toNat with
    | 1 => .ok (.csrrw rd rs1 csr)
    | 2 => .ok (.csrrs rd rs1 csr)
    | 3 => .ok (.csrrc rd rs1 csr)
    | 5 => .ok (.csrrwi rd imm5 csr)
    | 6 => .ok (.csrrsi rd imm5 csr)
    | 7 => .ok (.csrrci rd imm5 csr)
    | _ => .error .systemFunc3
  else .error .csrUpperBits

/-- SYSTEM (30_encoding.md R90 steps 7 and 8; func3 100 is reserved whatever the other bits, R207). -/
def decodeSystem (w : Word32) : Except Reserved Instr :=
  let func3 := w.extractLsb' 12 3
  if func3 = 0b000#3 then decodeSystemWord w
  else if func3 = 0b100#3 then .error .systemFunc3
  else decodeCsr func3 (w.extractLsb' 26 6) (w.extractLsb' 20 6) (regField32 w 7) (regField32 w 15)
    (w.extractLsb' 15 5)

/-- Decoding an RVL32 word in the order of 30_encoding.md R90; a word that matches no row is rejected by
the row of R95 it falls under. -/
def decode32 (w : Word32) : Except Reserved Instr :=
  let rd := regField32 w 7
  let rs1 := regField32 w 15
  let rs2 := regField32 w 20
  let func3 := w.extractLsb' 12 3
  let func7 := w.extractLsb' 25 7
  let imm12 := w.extractLsb' 20 12
  let imm20 := w.extractLsb' 12 20
  if w.extractLsb' 0 2 = 0b11#2 then
    match majorOf (w.extractLsb' 2 5) with
    | .lui => .ok (.lui rd imm20)
    | .auipc => .ok (.auipc rd imm20)
    | .jal => .ok (.jal rd imm20)
    | .jalr => if func3 = 0b000#3 then .ok (.jalr rd rs1 imm12) else .error .jalrFunc3
    | .branch => decodeBranch func3 rd rs1 imm12
    | .load => decodeLoad func3 rd rs1 imm12
    | .store => decodeStore func3 rd rs1 imm12
    | .opImm => decodeOpImm func3 func7 rd rs1 imm12 (w.extractLsb' 20 5)
    | .op => decodeOp func7 func3 rd rs1 rs2
    | .miscMem => decodeMiscMem func3 (w.extractLsb' 15 17) (w.extractLsb' 7 5)
    | .system => decodeSystem w
    | m => .error (.majorOpcode m)
  else .error .lowBits

/-! ### V16 -/

/-- The four-bit register field whose lowest bit is `lo` (30_encoding.md R101: rd 4, rs2 8, rs1 12). -/
def regField16 (w : Word16) (lo : Nat) : Reg16 := ⟨(w.extractLsb' lo 4).toNat, (w.extractLsb' lo 4).isLt⟩

/-- Op 15 with bit 11 clear: `#fun3` selects (30_encoding.md R104). -/
def decodeFun3 (fun3 : BitVec 3) (rd rs1 : Reg16) : Instr :=
  match fun3.toNat with
  | 0 => .v16Jalr rd rs1
  | 1 => .v16IfEq rd rs1
  | 2 => .v16IfNe rd rs1
  | 3 => .v16IfLt rd rs1
  | 4 => .v16IfGe rd rs1
  | 5 => .v16IfLtu rd rs1
  | 6 => .v16IfGeu rd rs1
  | _ => .v16Free15 rd rs1

/-- Decoding a V16 word by 30_encoding.md R106: every word is a row of the table, the FREE patterns of
R110 among them. The `rs1` field never selects (R111). -/
def decode16 (w : Word16) : Instr :=
  let rd := regField16 w 4
  let rs1 := regField16 w 12
  let rs2 := regField16 w 8
  let imm4 := w.extractLsb' 8 4
  let imm8 := w.extractLsb' 8 8
  match (w.extractLsb' 0 4).toNat with
  | 0 => if rs2 = 0 then .v16Free0 rd rs1 else .v16And rd rs1 rs2
  | 1 => if rs2 = 0 then .v16Free1 rd rs1 else .v16Or rd rs1 rs2
  | 2 => if rs2 = 0 then .v16Not rd rs1 else .v16Xor rd rs1 rs2
  | 3 => if rs2 = 0 then .v16Free3 rd rs1 else .v16Srl rd rs1 rs2
  | 4 => if rs2 = 0 then .v16Swp rd rs1 else .v16Sra rd rs1 rs2
  | 5 => .v16Add rd rs1 rs2
  | 6 => .v16Sub rd rs1 rs2
  | 7 => .v16Jal rd imm8
  | 8 => if rd = 0 then .v16Free8 imm8 else .v16Li rd imm8
  | 9 => if rd = 0 then .v16Free9 imm8 else .v16Lui rd imm8
  | 10 => if rd = 0 then .v16Free10 imm8 else .v16Auipc rd imm8
  | 11 => .v16Lw rd rs1 imm4
  | 12 => .v16Sw rd rs1 imm4
  | 13 => .v16Lb rd rs1 imm4
  | 14 => .v16Sb rd rs1 imm4
  | _ =>
    if w.extractLsb' 11 1 = 1#1 then .v16Addi rd rs1 (w.extractLsb' 8 3)
    else decodeFun3 (w.extractLsb' 8 3) rd rs1

/-! ### Words and bytes -/

/-- Decoding a word of either machine. -/
def decode : CodeWord → Except Reserved Instr
  | .rvl32 w => decode32 w
  | .v16 w => .ok (decode16 w)

/-- The number that bytes stand for, the first the least significant: both machines are little-endian for
data and for instruction fetch (20_memory.md R52, R56). -/
def leNat : List Byte → Nat
  | [] => 0
  | b :: bs => b.toNat + 256 * leNat bs

/-- The `k` bytes of a value at rising addresses: byte `j` is `v[8j+7 : 8j]` (20_memory.md R52). -/
def leBytes (v : Nat) : Nat → List Byte
  | 0 => []
  | k + 1 => BitVec.ofNat 8 v :: leBytes (v / 256) k

/-- The word that the first bytes of a list hold, and the bytes after it (20_memory.md R56). -/
def takeWord : Isa → List Byte → Except Reserved (CodeWord × List Byte)
  | .rvl32, b0 :: b1 :: b2 :: b3 :: rest => .ok (.rvl32 (BitVec.ofNat 32 (leNat [b0, b1, b2, b3])), rest)
  | .v16, b0 :: b1 :: rest => .ok (.v16 (BitVec.ofNat 16 (leNat [b0, b1])), rest)
  | .rvl32, _ => .error .truncated
  | .v16, _ => .error .truncated

/-- Decoding from any bytes: the instruction and the bytes after it, or the reason there is none. -/
def decodeBytes (m : Isa) (bs : List Byte) : Except Reserved (Instr × List Byte) :=
  match takeWord m bs with
  | .error r => .error r
  | .ok (w, rest) =>
    match decode w with
    | .error r => .error r
    | .ok i => .ok (i, rest)

/-- The instruction the decoder reads from an opcode-table row's word: a row of 16 bits is V16's, a
wider one RVL32's (00_scope.md R6: the instruction lengths are 16 and 32). -/
def decodeTableWord (nbits w : Nat) : Option Instr :=
  let m := if nbits ≤ 16 then Isa.v16 else Isa.rvl32
  match decodeBytes m (leBytes w (if nbits ≤ 16 then 2 else 4)) with
  | .ok (i, _) => some i
  | .error _ => none

/-! ### Encoding -/

/-- Format R (30_encoding.md R81); format I' with `#imm5` in the `rs2` field (R84). -/
def formatR (func7 : BitVec 7) (rs2 rs1 : BitVec 5) (func3 : BitVec 3) (rd : BitVec 5)
    (opcode : BitVec 7) : Word32 :=
  func7 ++ rs2 ++ rs1 ++ func3 ++ rd ++ opcode

/-- Format I (30_encoding.md R82); format I" with `#imm5` in the `rs1` field (R85). -/
def formatI (imm12 : BitVec 12) (rs1 : BitVec 5) (func3 : BitVec 3) (rd : BitVec 5)
    (opcode : BitVec 7) : Word32 :=
  imm12 ++ rs1 ++ func3 ++ rd ++ opcode

/-- Format UJ (30_encoding.md R83). -/
def formatUJ (imm20 : BitVec 20) (rd : BitVec 5) (opcode : BitVec 7) : Word32 :=
  imm20 ++ rd ++ opcode

/-- The MISC-MEM word: opcode and func3, every other bit free (45_misc_mem_system.md R195, R196). -/
def formatMisc (hi : BitVec 17) (func3 : BitVec 3) (mid : BitVec 5) : Word32 :=
  hi ++ func3 ++ mid ++ 0b0001111#7

/-- The five bits of an RVL32 register field. -/
def regBits32 (r : Reg32) : BitVec 5 := BitVec.ofNat 5 r.val

/-- An I-format word with register operands. -/
def wordI (imm12 : BitVec 12) (rs1 : Reg32) (func3 : BitVec 3) (rd : Reg32) (opcode : BitVec 7) : CodeWord :=
  .rvl32 (formatI imm12 (regBits32 rs1) func3 (regBits32 rd) opcode)

/-- An I'-format word (30_encoding.md R84). -/
def wordShift (func7 : BitVec 7) (imm5 : BitVec 5) (rs1 : Reg32) (func3 : BitVec 3) (rd : Reg32) : CodeWord :=
  .rvl32 (formatR func7 imm5 (regBits32 rs1) func3 (regBits32 rd) 0b0010011#7)

/-- An R-format word of OP. -/
def wordOp (func7 : BitVec 7) (func3 : BitVec 3) (rd rs1 rs2 : Reg32) : CodeWord :=
  .rvl32 (formatR func7 (regBits32 rs2) (regBits32 rs1) func3 (regBits32 rd) 0b0110011#7)

/-- A CSR word: the upper six bits of the 12-bit field are zero (30_encoding.md R88). -/
def wordCsr (csr : BitVec 6) (src : BitVec 5) (func3 : BitVec 3) (rd : Reg32) : CodeWord :=
  .rvl32 (formatI (0b000000#6 ++ csr) src func3 (regBits32 rd) 0b1110011#7)

/-- The four bits of a V16 register field. -/
def regBits16 (r : Reg16) : BitVec 4 := BitVec.ofNat 4 r.val

/-- Formats RR, RI, R and RI3: four fields of four bits (30_encoding.md R101). -/
def formatQuad (a b c op : BitVec 4) : Word16 := a ++ b ++ c ++ op

/-- Format RR (30_encoding.md R101). -/
def wordRR (op : BitVec 4) (rd rs1 rs2 : Reg16) : CodeWord :=
  .v16 (formatQuad (regBits16 rs1) (regBits16 rs2) (regBits16 rd) op)

/-- Format RI (30_encoding.md R101). -/
def wordRI (op : BitVec 4) (rd rs1 : Reg16) (imm4 : BitVec 4) : CodeWord :=
  .v16 (formatQuad (regBits16 rs1) imm4 (regBits16 rd) op)

/-- V16's format I (30_encoding.md R101): `#imm8` in bits 15 to 8. -/
def wordImm8 (op : BitVec 4) (rd : Reg16) (imm8 : BitVec 8) : CodeWord :=
  .v16 (imm8 ++ regBits16 rd ++ op)

/-- V16's format R (30_encoding.md R101): `0 ++ #fun3`, Op 15. -/
def wordFun3 (fun3 : BitVec 3) (rd rs1 : Reg16) : CodeWord :=
  .v16 (formatQuad (regBits16 rs1) (0#1 ++ fun3) (regBits16 rd) 0b1111#4)

/-- Format RI3 (30_encoding.md R101): `1 ++ #imm3`, Op 15. -/
def wordImm3 (imm3 : BitVec 3) (rd rs1 : Reg16) : CodeWord :=
  .v16 (formatQuad (regBits16 rs1) (1#1 ++ imm3) (regBits16 rd) 0b1111#4)

/-- The word of an instruction, from the tables of 30_encoding.md R87, R103, R104 and R110. -/
def encode : Instr → CodeWord
  | .lui rd imm20 => .rvl32 (formatUJ imm20 (regBits32 rd) 0b0110111#7)
  | .auipc rd imm20 => .rvl32 (formatUJ imm20 (regBits32 rd) 0b0010111#7)
  | .jal rd imm20 => .rvl32 (formatUJ imm20 (regBits32 rd) 0b1101111#7)
  | .jalr rd rs1 imm12 => wordI imm12 rs1 0b000#3 rd 0b1100111#7
  | .beq rd rs1 imm12 => wordI imm12 rs1 0b000#3 rd 0b1100011#7
  | .bne rd rs1 imm12 => wordI imm12 rs1 0b001#3 rd 0b1100011#7
  | .blt rd rs1 imm12 => wordI imm12 rs1 0b100#3 rd 0b1100011#7
  | .bge rd rs1 imm12 => wordI imm12 rs1 0b101#3 rd 0b1100011#7
  | .bltu rd rs1 imm12 => wordI imm12 rs1 0b110#3 rd 0b1100011#7
  | .bgeu rd rs1 imm12 => wordI imm12 rs1 0b111#3 rd 0b1100011#7
  | .lb rd rs1 imm12 => wordI imm12 rs1 0b000#3 rd 0b0000011#7
  | .lh rd rs1 imm12 => wordI imm12 rs1 0b001#3 rd 0b0000011#7
  | .lw rd rs1 imm12 => wordI imm12 rs1 0b010#3 rd 0b0000011#7
  | .lbu rd rs1 imm12 => wordI imm12 rs1 0b100#3 rd 0b0000011#7
  | .lhu rd rs1 imm12 => wordI imm12 rs1 0b101#3 rd 0b0000011#7
  | .sb rd rs1 imm12 => wordI imm12 rs1 0b000#3 rd 0b0100011#7
  | .sh rd rs1 imm12 => wordI imm12 rs1 0b001#3 rd 0b0100011#7
  | .sw rd rs1 imm12 => wordI imm12 rs1 0b010#3 rd 0b0100011#7
  | .addi rd rs1 imm12 => wordI imm12 rs1 0b000#3 rd 0b0010011#7
  | .slti rd rs1 imm12 => wordI imm12 rs1 0b010#3 rd 0b0010011#7
  | .sltiu rd rs1 imm12 => wordI imm12 rs1 0b011#3 rd 0b0010011#7
  | .xori rd rs1 imm12 => wordI imm12 rs1 0b100#3 rd 0b0010011#7
  | .ori rd rs1 imm12 => wordI imm12 rs1 0b110#3 rd 0b0010011#7
  | .andi rd rs1 imm12 => wordI imm12 rs1 0b111#3 rd 0b0010011#7
  | .slli rd rs1 imm5 => wordShift 0b0000000#7 imm5 rs1 0b001#3 rd
  | .srli rd rs1 imm5 => wordShift 0b0000000#7 imm5 rs1 0b101#3 rd
  | .srai rd rs1 imm5 => wordShift 0b0100000#7 imm5 rs1 0b101#3 rd
  | .add rd rs1 rs2 => wordOp 0b0000000#7 0b000#3 rd rs1 rs2
  | .sub rd rs1 rs2 => wordOp 0b0100000#7 0b000#3 rd rs1 rs2
  | .sll rd rs1 rs2 => wordOp 0b0000000#7 0b001#3 rd rs1 rs2
  | .slt rd rs1 rs2 => wordOp 0b0000000#7 0b010#3 rd rs1 rs2
  | .sltu rd rs1 rs2 => wordOp 0b0000000#7 0b011#3 rd rs1 rs2
  | .xor rd rs1 rs2 => wordOp 0b0000000#7 0b100#3 rd rs1 rs2
  | .srl rd rs1 rs2 => wordOp 0b0000000#7 0b101#3 rd rs1 rs2
  | .sra rd rs1 rs2 => wordOp 0b0100000#7 0b101#3 rd rs1 rs2
  | .or rd rs1 rs2 => wordOp 0b0000000#7 0b110#3 rd rs1 rs2
  | .and rd rs1 rs2 => wordOp 0b0000000#7 0b111#3 rd rs1 rs2
  | .fence hi mid => .rvl32 (formatMisc hi 0b000#3 mid)
  | .fenceI hi mid => .rvl32 (formatMisc hi 0b001#3 mid)
  | .ecall => .rvl32 0x00000073#32
  | .ebreak => .rvl32 0x00100073#32
  | .wfi => .rvl32 0x10500073#32
  | .csrrw rd rs1 csr => wordCsr csr (regBits32 rs1) 0b001#3 rd
  | .csrrs rd rs1 csr => wordCsr csr (regBits32 rs1) 0b010#3 rd
  | .csrrc rd rs1 csr => wordCsr csr (regBits32 rs1) 0b011#3 rd
  | .csrrwi rd imm5 csr => wordCsr csr imm5 0b101#3 rd
  | .csrrsi rd imm5 csr => wordCsr csr imm5 0b110#3 rd
  | .csrrci rd imm5 csr => wordCsr csr imm5 0b111#3 rd
  | .mul rd rs1 rs2 => wordOp 0b0000001#7 0b000#3 rd rs1 rs2
  | .mulh rd rs1 rs2 => wordOp 0b0000001#7 0b001#3 rd rs1 rs2
  | .mulhsu rd rs1 rs2 => wordOp 0b0000001#7 0b010#3 rd rs1 rs2
  | .mulhu rd rs1 rs2 => wordOp 0b0000001#7 0b011#3 rd rs1 rs2
  | .div rd rs1 rs2 => wordOp 0b0000001#7 0b100#3 rd rs1 rs2
  | .divu rd rs1 rs2 => wordOp 0b0000001#7 0b101#3 rd rs1 rs2
  | .rem rd rs1 rs2 => wordOp 0b0000001#7 0b110#3 rd rs1 rs2
  | .remu rd rs1 rs2 => wordOp 0b0000001#7 0b111#3 rd rs1 rs2
  | .v16And rd rs1 rs2 => wordRR 0 rd rs1 rs2
  | .v16Or rd rs1 rs2 => wordRR 1 rd rs1 rs2
  | .v16Xor rd rs1 rs2 => wordRR 2 rd rs1 rs2
  | .v16Not rd rs1 => wordRR 2 rd rs1 0
  | .v16Srl rd rs1 rs2 => wordRR 3 rd rs1 rs2
  | .v16Sra rd rs1 rs2 => wordRR 4 rd rs1 rs2
  | .v16Swp rd rs1 => wordRR 4 rd rs1 0
  | .v16Add rd rs1 rs2 => wordRR 5 rd rs1 rs2
  | .v16Sub rd rs1 rs2 => wordRR 6 rd rs1 rs2
  | .v16Jal rd imm8 => wordImm8 7 rd imm8
  | .v16Li rd imm8 => wordImm8 8 rd imm8
  | .v16Lui rd imm8 => wordImm8 9 rd imm8
  | .v16Auipc rd imm8 => wordImm8 10 rd imm8
  | .v16Lw rd rs1 imm4 => wordRI 11 rd rs1 imm4
  | .v16Sw rd rs1 imm4 => wordRI 12 rd rs1 imm4
  | .v16Lb rd rs1 imm4 => wordRI 13 rd rs1 imm4
  | .v16Sb rd rs1 imm4 => wordRI 14 rd rs1 imm4
  | .v16Jalr rd rs1 => wordFun3 0 rd rs1
  | .v16IfEq rd rs1 => wordFun3 1 rd rs1
  | .v16IfNe rd rs1 => wordFun3 2 rd rs1
  | .v16IfLt rd rs1 => wordFun3 3 rd rs1
  | .v16IfGe rd rs1 => wordFun3 4 rd rs1
  | .v16IfLtu rd rs1 => wordFun3 5 rd rs1
  | .v16IfGeu rd rs1 => wordFun3 6 rd rs1
  | .v16Addi rd rs1 imm3 => wordImm3 imm3 rd rs1
  | .v16Free0 rd rs1 => wordRR 0 rd rs1 0
  | .v16Free1 rd rs1 => wordRR 1 rd rs1 0
  | .v16Free3 rd rs1 => wordRR 3 rd rs1 0
  | .v16Free8 imm8 => wordImm8 8 0 imm8
  | .v16Free9 imm8 => wordImm8 9 0 imm8
  | .v16Free10 imm8 => wordImm8 10 0 imm8
  | .v16Free15 rd rs1 => wordFun3 7 rd rs1

end Sys2Proof
end

