-- ==== Sys2Proof/Machine/Memory.lean ====
section
/-! DEFINITION. Memory as sparse data in one canonical form, and sets of byte addresses in one canonical form.

20_memory.md R50: one address per byte. The bytes of a value and their order are `leNat` and `leBytes` of
Decode.lean (R52); alignment, validity and devices are in Machine/Ops.lean. -/

namespace Sys2Proof.Machine

/-- What a byte of memory that nothing has written reads as. The spec gives no value: "any value where
`mem_valid`" (93_implementation_defined.md U24). DESIGN CHOICE, unsafe (log 5). -/
def unlistedByte : Byte := 0#8

/-- Memory: (address, byte) pairs, addresses strictly rising, no entry equal to `unlistedByte`. -/
abbrev Memory := List Host.Cell

/-- The byte at an address. -/
def Memory.read : Memory → Nat → Byte
  | [], _ => unlistedByte
  | (k, b) :: m, a => if k = a then b else Memory.read m a

/-- An entry for a byte, or none where it equals `unlistedByte`. -/
def Memory.cons (a : Nat) (b : Byte) (m : Memory) : Memory :=
  if b = unlistedByte then m else (a, b) :: m

/-- Memory with the byte at an address replaced; keeps the canonical form. -/
def Memory.write : Memory → Nat → Byte → Memory
  | [], a, b => Memory.cons a b []
  | (k, c) :: m, a, b =>
    if a < k then Memory.cons a b ((k, c) :: m)
    else if a = k then Memory.cons a b m
    else (k, c) :: Memory.write m a b

/-- Every entry lies above `lo` and below `bound`, rises, and differs from `unlistedByte`. -/
def Memory.wfFrom (bound : Nat) : Nat → Memory → Bool
  | _, [] => true
  | lo, (k, b) :: m => decide (lo ≤ k) && decide (k < bound) && decide (b ≠ unlistedByte) && Memory.wfFrom bound (k + 1) m

/-- The canonical form of a memory of `2^xlen` bytes. -/
def Memory.wf (xlen : Nat) (m : Memory) : Bool := Memory.wfFrom (2 ^ xlen) 0 m

/-- A memory of `2^xlen` bytes that holds the listed bytes; a later entry of the list wins (log 20). -/
def Memory.ofCells (xlen : Nat) (cells : List Host.Cell) : Memory :=
  cells.foldl (fun m c => Memory.write m (c.1 % 2 ^ xlen) c.2) []

/-- A set of byte addresses: strictly rising. -/
abbrev AddrSet := List Nat

/-- The set with one address added. -/
def AddrSet.insert : AddrSet → Nat → AddrSet
  | [], a => [a]
  | k :: s, a => if a < k then a :: k :: s else if a = k then k :: s else k :: AddrSet.insert s a

/-- Every address lies from `lo` up and below `bound`, and they rise. -/
def AddrSet.wfFrom (bound : Nat) : Nat → AddrSet → Bool
  | _, [] => true
  | lo, k :: s => decide (lo ≤ k) && decide (k < bound) && AddrSet.wfFrom bound (k + 1) s

/-- The canonical form of a set of byte addresses of a space of `2^xlen` bytes. -/
def AddrSet.wf (xlen : Nat) (s : AddrSet) : Bool := AddrSet.wfFrom (2 ^ xlen) 0 s

end Sys2Proof.Machine
end

