-- ==== Sys2Proof/Machine/Platform.lean ====
section
/-! DEFINITION. The baseline platform: the value of every parameter of 00_scope.md R6 at `State.reset`, and the
questions the machines put to a memory map. -/

namespace Sys2Proof

/-- `mem_valid(addr, n, kind)` of 20_memory.md R55: some window holds it (log 6). -/
def Platform.valid (p : Platform) (kind : AccessKind) (addr width : Nat) : Bool :=
  p.windows.any fun w => decide (w.kind = kind) && (w.width == width) && decide (w.first ≤ addr) && decide (addr ≤ w.last)

/-- Whether a byte address is a device's (20_memory.md R59). -/
def Platform.isDevice (p : Platform) (addr : Nat) : Bool :=
  p.devices.any fun r => decide (r.first ≤ addr) && decide (addr ≤ r.last)

end Sys2Proof

namespace Sys2Proof.Machine

/-- Every access of the listed widths is valid everywhere below `2^xlen`. -/
def openWindows (xlen : Nat) (fetch : Nat) (data : List Nat) : List Window :=
  ⟨.fetch, fetch, 0, 2 ^ xlen - 1⟩ ::
    (data.map (fun n => ⟨.load, n, 0, 2 ^ xlen - 1⟩) ++ data.map (fun n => ⟨.store, n, 0, 2 ^ xlen - 1⟩))

/-- RVL32's baseline memory system: the defaults of 00_scope.md R6, and for the OPEN map every access valid
and no device (DESIGN CHOICE, log 6, log 7). -/
def baselinePlatform32 : Platform :=
  { windows := openWindows 32 4 [1, 2, 4], devices := [], misaligned := .fault, smc := .refuse }

/-- V16's baseline memory system, chosen likewise. -/
def baselinePlatform16 : Platform :=
  { windows := openWindows 16 2 [1, 2], devices := [], misaligned := .fault, smc := .refuse }

/-- The baseline parameters. The spec states: both policies, and that no CSR exists (R6). It leaves open:
`RESET_PC`, the register values at reset, the image, the map, `wake`, `V16_IMM3_SIGNED` and
`V16_LOW_IO`; the values here are DESIGN CHOICES (logs 1, 3 to 7, 9 to 11). -/
def baselineParams : Params :=
  { isa := .rvl32
    rvl32 := { resetPc := 0x00000000#32, regs := Vector.replicate 32 0#32, image := [], platform := baselinePlatform32 }
    csrs := Vector.replicate 64 .absent
    wake := []
    v16 := { resetPc := 0x0000#16, regs := Vector.replicate 16 0#16, image := [], platform := baselinePlatform16 }
    imm3Signed := true
    lowIo := false }

/-- The byte addresses 0 to 15 that `V16_LOW_IO` makes devices (10_state.md R42). -/
def lowIoRange : AddrRange := ⟨0, 15⟩

/-- V16's memory system under `V16_LOW_IO`: true puts addresses 0 to 15 on the device list (10_state.md R42, log 10). -/
def platform16 (p : Params) : Platform :=
  if p.lowIo then { p.v16.platform with devices := lowIoRange :: p.v16.platform.devices } else p.v16.platform

end Sys2Proof.Machine
end

