-- ==== Sys2Proof/Machine/State.lean ====
section
/-! DEFINITION. The state of the two machines as plain data (10_state.md), the reasons of the terminal
fault (60_exceptions.md R302), and the start state (R34, R45, 70_reset_and_hazards.md R330). -/

namespace Sys2Proof.Machine

/-- The fault reasons of 60_exceptions.md R302, with their payloads as numbers: an address or a word of either
machine (log 15). Raising one is a NEXT state whose `fault` field holds it (R301): the machine is then
stuck, and `step` leaves it as it is. No step answers the interface's `fault` outcome (log 2). -/
inductive Fault where
  /-- Raised by JALR of either machine for a target that is not a multiple of the instruction length, and by a fetch
  at such a pc (R56). Safe: the spec's own stop. -/
  | misalignedFetch (addr : Nat)
  /-- Raised by a fetch, a load or a store where `mem_valid` is false (R55). Safe: the spec's own stop. -/
  | accessFault (addr : Nat)
  /-- Raised by a fetch of a byte that a store has written, under `SMC_POLICY = refuse` (R62). Safe: the spec's own stop. -/
  | fetchAfterStore (pc : Nat)
  /-- Raised by every reserved RVL32 word and every FREE V16 word (R303). Safe: the spec's own stop. -/
  | illegalInstruction (word : Nat)
  /-- Raised by FENCE, FENCE.I, ECALL and EBREAK, always (R304). Safe: the spec's own stop. -/
  | unimplemented (word : Nat)
  /-- Raised by a load or store whose address is not a multiple of its width, under
  `MISALIGNED_POLICY = fault` (R54). Safe: the spec's own stop. -/
  | misalignedAccess (addr : Nat)
  /-- Raised by a CSR instruction whose CSR does not exist (R31). Safe: the spec's own stop. -/
  | undefinedCsr (index : Nat)
deriving DecidableEq, Repr

/-- Why a step could have no meaning at all. Every instruction has a meaning, so nothing raises it. -/
inductive Refusal where
  /-- Raised only by an arm of `exec` whose instruction has no meaning yet; no arm is one. Safe: the run ends. -/
  | notModelled (mnemonic : String)
deriving DecidableEq, Repr

/-- One access to something of the platform's whose behaviour the spec does not give: a data access or a fetch that
touches a byte of a device, as the single access of its width that it is (20_memory.md R58, R59, 10_state.md R42), or
an access to a CSR of the platform's own (10_state.md R31). The MODEL's own record (log 7). -/
inductive IoEvent where
  | read (addr width : Nat)
  /-- A write of the listed bytes, the one at `addr` first. -/
  | write (addr : Nat) (bytes : List Byte)
  | csrRead (index : Nat)
  | csrWrite (index : Nat) (v : Word32)
deriving DecidableEq, Repr

/-- What the two machines have alike: one hart whose registers, pc and addresses have `n` bits and which has `n`
registers (32 of 32 bits, 16 of 16 bits: 10_state.md R20, R36, R37). -/
structure Hart (n : Nat) where
  /-- The general registers; the cell of `x0` is never read (R21, R38). -/
  regs : Vector (BitVec n) n
  /-- The address of the instruction being executed (R24, R40). -/
  pc : BitVec n
  /-- The bytes of the one address space (R33, R43). -/
  mem : Memory
  /-- The byte addresses stored to since reset (R32 (c), R43). -/
  stored : AddrSet
  /-- The terminal fault (R32 (b), R43). -/
  fault : Option Fault
  /-- The platform's parameters (R46); no step changes them (log 16). -/
  platform : Platform
  /-- The MODEL's own: how many free values have been drawn (log 8). -/
  draws : Nat
  /-- The MODEL's own: accesses handed to the platform, newest first (log 7). -/
  io : List IoEvent
deriving DecidableEq, Repr

/-- Both machines (00_scope.md R1: each with its own state, nothing shared). -/
structure State where
  /-- The MODEL's own: which machine the next step belongs to; no step changes it (log 1). -/
  isa : Isa
  rvl32 : Hart 32
  /-- The RVL32 CSR space, by the six-bit index (10_state.md R30). -/
  csrs : Vector CsrCell 64
  /-- True from a WFI until the environment's wake event (10_state.md R32 (a)). -/
  waiting : Bool
  /-- The environment's input `wake`, its coming values; an empty list reads as false (log 11). -/
  wake : List Bool
  v16 : Hart 16
  /-- `V16_IMM3_SIGNED` (48_v16_alu.md R253); no step changes it. -/
  imm3Signed : Bool
deriving DecidableEq, Repr

/-- A machine right after reset (10_state.md R34, R45): `x0` zero, the other registers at the given values, the
pc at `RESET_PC`, memory the image, `stored` empty, no fault. -/
def Hart.start {n : Nat} (p : MachineParams n) (platform : Platform) : Hart n :=
  { regs := Vector.ofFn fun r => if r.val = 0 then 0#n else p.regs[r]
    pc := p.resetPc
    mem := Memory.ofCells n p.image
    stored := []
    fault := none
    platform := platform
    draws := 0
    io := [] }

/-- The start state for any values of the parameters (70_reset_and_hazards.md R330 to R332). -/
def State.start (p : Params) : State :=
  { isa := p.isa
    rvl32 := Hart.start p.rvl32 p.rvl32.platform
    csrs := p.csrs
    waiting := false
    wake := p.wake
    v16 := Hart.start p.v16 (platform16 p)
    imm3Signed := p.imm3Signed }

/-- The machines right after reset on the baseline platform (Machine/Platform.lean). -/
def State.reset : State := State.start baselineParams

end Sys2Proof.Machine
end

