-- ==== Sys2Proof/Machine/Ops.lean ====
section
/-! DEFINITION. The operations every meaning is written over: registers, the pc, the terminal fault, byte and
word accesses, instruction fetch, CSR accesses. Those of one hart are written once for both machines.

A meaning is a function of the hart to the hart after it: completing and entering the terminal fault
are both a next state (60_exceptions.md R301). -/

namespace Sys2Proof.Machine

/-! ### Registers and the pc -/

/-- `x[r]`: x0 reads as zero (10_state.md R21, R38). -/
def Hart.x {n : Nat} (h : Hart n) (r : Fin n) : BitVec n :=
  if r.val = 0 then 0#n else h.regs[r.val]'r.isLt

/-- `x[r] <- v`: a write to x0 is discarded (10_state.md R21, R38). -/
def Hart.setX {n : Nat} (h : Hart n) (r : Fin n) (v : BitVec n) : Hart n :=
  if r.val = 0 then h else { h with regs := h.regs.set r.val v r.isLt }

/-- The instruction length in bytes: 4 for RVL32, 2 for V16 (30_encoding.md R80, R100). -/
def ilen (n : Nat) : Nat := n / 8

/-- The address of the next instruction, modulo `2^XLEN` (10_state.md R25, R41). -/
def Hart.nextPc {n : Nat} (h : Hart n) : BitVec n := h.pc + BitVec.ofNat n (ilen n)

/-- `pc <- t`. -/
def Hart.jump {n : Nat} (h : Hart n) (t : BitVec n) : Hart n := { h with pc := t }

/-- The pc after an instruction whose rule has no `pc <-` (00_scope.md R9). -/
def Hart.advance {n : Nat} (h : Hart n) : Hart n := h.jump h.nextPc

/-- `x[rd] <- v` and on to the next instruction. -/
def Hart.writeNext {n : Nat} (h : Hart n) (rd : Fin n) (v : BitVec n) : Hart n := (h.setX rd v).advance

/-- `x[rd] <-` the address of the next instruction, `pc <- t` (40_upper_and_jumps.md R132, R134; 49 R271, R272). -/
def Hart.link {n : Nat} (h : Hart n) (rd : Fin n) (t : BitVec n) : Hart n := (h.setX rd h.nextPc).jump t

/-! ### The terminal fault -/

/-- Entering the terminal fault: `fault <- some reason`, and no register, memory byte, CSR or pc changes
(60_exceptions.md R301). This is the spec's whole description of taking an exception: nothing is saved, no
mode changes, control goes nowhere (R311). There is no return from it (R312); only reset leaves it (R330). -/
def Hart.raise {n : Nat} (h : Hart n) (f : Fault) : Hart n := { h with fault := some f }

/-- The jump of a JALR: its target must be a multiple of the instruction length, else the JALR itself faults with
`x[rd]` and `pc` unchanged (40_upper_and_jumps.md R134, 49_v16_control_memory.md R272). -/
def Hart.linkAligned {n : Nat} (h : Hart n) (rd : Fin n) (t : BitVec n) : Hart n :=
  if t.toNat % ilen n = 0 then h.link rd t else h.raise (.misalignedFetch t.toNat)

/-! ### Free values -/

/-- Draws a free value of the register width into `x[rd]` (`unspecified_N()`, 00_scope.md R9; log 8). -/
def Hart.drawNext {n : Nat} (h : Hart n) (rd : Fin n) : Hart n :=
  { h with draws := h.draws + 1 }.writeNext rd (Config.unspecified n h.draws n)

/-! ### Bytes of memory and of devices -/

/-- The byte addresses of `k` bytes from `addr` on, modulo `2^XLEN`. -/
def byteAddrs {n : Nat} (addr : BitVec n) : Nat → List Nat
  | 0 => []
  | k + 1 => addr.toNat :: byteAddrs (addr + 1#n) k

/-- Whether an access touches a byte of a device (20_memory.md R59). -/
def Hart.touchesDevice {n : Nat} (h : Hart n) (addr : BitVec n) (width : Nat) : Bool :=
  (byteAddrs addr width).any fun a => h.platform.isDevice a

/-- An access that touches a device is handed to the platform (20_memory.md R58, R59; log 7). -/
def Hart.noteIo {n : Nat} (h : Hart n) (addr : BitVec n) (width : Nat) (e : IoEvent) : Hart n :=
  if h.touchesDevice addr width then { h with io := e :: h.io } else h

/-- The byte at an address: memory, or a free value at a device address (20_memory.md R59; log 8). -/
def Hart.readByte {n : Nat} (h : Hart n) (a : Nat) : Byte × Hart n :=
  if h.platform.isDevice a then (Config.unspecified n h.draws 8, { h with draws := h.draws + 1 })
  else (h.mem.read a, h)

/-- `k` bytes at rising addresses modulo `2^XLEN` (20_memory.md R52). -/
def Hart.readBytes {n : Nat} (h : Hart n) (addr : BitVec n) : Nat → List Byte × Hart n
  | 0 => ([], h)
  | k + 1 =>
    let (b, h1) := h.readByte addr.toNat
    let (bs, h2) := h1.readBytes (addr + 1#n) k
    (b :: bs, h2)

/-- One indivisible read of its width (20_memory.md R58). -/
def Hart.readAccess {n : Nat} (h : Hart n) (addr : BitVec n) (width : Nat) : List Byte × Hart n :=
  (h.noteIo addr width (.read addr.toNat width)).readBytes addr width

/-- A read performed as single bytes, in ascending order (20_memory.md R54). -/
def Hart.readSplit {n : Nat} (h : Hart n) (addr : BitVec n) : Nat → List Byte × Hart n
  | 0 => ([], h)
  | k + 1 =>
    let (b, h1) := h.readAccess addr 1
    let (bs, h2) := h1.readSplit (addr + 1#n) k
    (b ++ bs, h2)

/-- The bytes of a data read that may be made: one access where it is aligned, else single bytes (20_memory.md R54,
R58). -/
def Hart.readData {n : Nat} (h : Hart n) (addr : BitVec n) (width : Nat) : List Byte × Hart n :=
  if addr.toNat % width = 0 then h.readAccess addr width else h.readSplit addr width

/-- The byte addresses a store adds to `stored`: those written, under `SMC_POLICY = refuse` (20_memory.md R62). -/
def Hart.noteStored {n : Nat} (h : Hart n) (a : Nat) : Hart n :=
  match h.platform.smc with
  | .refuse => { h with stored := AddrSet.insert h.stored a }
  | .coherent => h

/-- One byte stored: to memory, or to no memory at a device address (10_state.md R42; log 7). -/
def Hart.writeByte {n : Nat} (h : Hart n) (a : Nat) (b : Byte) : Hart n :=
  if h.platform.isDevice a then h.noteStored a else { h with mem := Memory.write h.mem a b }.noteStored a

/-- Bytes stored at rising addresses modulo `2^XLEN` (20_memory.md R52). -/
def Hart.writeBytes {n : Nat} (h : Hart n) (addr : BitVec n) : List Byte → Hart n
  | [] => h
  | b :: bs => (h.writeByte addr.toNat b).writeBytes (addr + 1#n) bs

/-- One indivisible write of its width (20_memory.md R58). -/
def Hart.writeAccess {n : Nat} (h : Hart n) (addr : BitVec n) (bs : List Byte) : Hart n :=
  (h.noteIo addr bs.length (.write addr.toNat bs)).writeBytes addr bs

/-- A write performed as single bytes, in ascending order (20_memory.md R54). -/
def Hart.writeSplit {n : Nat} (h : Hart n) (addr : BitVec n) : List Byte → Hart n
  | [] => h
  | b :: bs => (h.writeAccess addr [b]).writeSplit (addr + 1#n) bs

/-- The bytes of a data write that may be made: one access where it is aligned, else single bytes (20_memory.md R54,
R58). -/
def Hart.writeData {n : Nat} (h : Hart n) (addr : BitVec n) (bs : List Byte) : Hart n :=
  if addr.toNat % bs.length = 0 then h.writeAccess addr bs else h.writeSplit addr bs

/-! ### Data accesses -/

/-- The fault of the first of `k` single bytes that is not valid (20_memory.md R54, R55; log 13). -/
def Hart.checkBytes {n : Nat} (h : Hart n) (kind : AccessKind) (addr : BitVec n) : Nat → Option Fault
  | 0 => none
  | k + 1 =>
    if h.platform.valid kind addr.toNat 1 then h.checkBytes kind (addr + 1#n) k
    else some (.accessFault addr.toNat)

/-- The fault of a data access of `width` bytes, if it has one: alignment first, then validity
(20_memory.md R54, R55; 60_exceptions.md R306 steps 7 and 8). -/
def Hart.checkAccess {n : Nat} (h : Hart n) (kind : AccessKind) (addr : BitVec n) (width : Nat) : Option Fault :=
  if addr.toNat % width = 0 then
    if h.platform.valid kind addr.toNat width then none else some (.accessFault addr.toNat)
  else
    match h.platform.misaligned with
    | .fault => some (.misalignedAccess addr.toNat)
    | .bytewise => h.checkBytes kind addr width

/-- `MemRead(addr, width)` (00_scope.md R9, 20_memory.md R52). -/
def Hart.load {n : Nat} (h : Hart n) (addr : BitVec n) (width : Nat) : Except Fault (BitVec (8 * width) × Hart n) :=
  match h.checkAccess .load addr width with
  | some f => .error f
  | none =>
    let (bs, h1) := h.readData addr width
    .ok (BitVec.ofNat (8 * width) (leNat bs), h1)

/-- `MemWrite(addr, width, v)` (00_scope.md R9, 20_memory.md R52). -/
def Hart.store {n : Nat} (h : Hart n) (addr : BitVec n) (width : Nat) (v : BitVec (8 * width)) : Except Fault (Hart n) :=
  match h.checkAccess .store addr width with
  | some f => .error f
  | none => .ok (h.writeData addr (leBytes v.toNat width))

/-- A load into `x[rd]`, widened by `ext`; with `rd = x0` the access is still performed, and a fault writes
nothing (42_loads_stores.md R151, 49_v16_control_memory.md R279). -/
def Hart.loadInto {n : Nat} (h : Hart n) (rd : Fin n) (addr : BitVec n) (width : Nat)
    (ext : BitVec (8 * width) → BitVec n) : Hart n :=
  match h.load addr width with
  | .error f => h.raise f
  | .ok (v, h1) => h1.writeNext rd (ext v)

/-- A store of the low `width` bytes of `v`; a fault writes no byte (42_loads_stores.md R157, 49 R279). -/
def Hart.storeFrom {n : Nat} (h : Hart n) (v : BitVec n) (addr : BitVec n) (width : Nat) : Hart n :=
  match h.store addr width (v.extractLsb' 0 (8 * width)) with
  | .error f => h.raise f
  | .ok h1 => h1.advance

/-! ### Instruction fetch -/

/-- The fault of fetching at the pc, if it has one: alignment, validity, then a byte stored to
(20_memory.md R56, R62; 60_exceptions.md R306 steps 1 to 3). -/
def Hart.checkFetch {n : Nat} (h : Hart n) : Option Fault :=
  if h.pc.toNat % ilen n = 0 then
    if h.platform.valid .fetch h.pc.toNat (ilen n) then
      match h.platform.smc with
      | .refuse =>
        if (byteAddrs h.pc (ilen n)).any (fun a => h.stored.contains a) then some (.fetchAfterStore h.pc.toNat)
        else none
      | .coherent => none
    else some (.accessFault h.pc.toNat)
  else some (.misalignedFetch h.pc.toNat)

/-- `Fetch(pc)`: the instruction word at the pc, read as memory is (20_memory.md R56; log 25). -/
def Hart.fetch {n : Nat} (h : Hart n) : Except Fault (BitVec n × Hart n) :=
  match h.checkFetch with
  | some f => .error f
  | none =>
    let (bs, h1) := h.readAccess h.pc (ilen n)
    .ok (BitVec.ofNat n (leNat bs), h1)

/-! ### Both machines in one state -/

/-- What a meaning answers. -/
abbrev Result := Host.Outcome State Fault Refusal

/-- RVL32 goes on as `h`; V16 and the rest stay. -/
def State.next32 (s : State) (h : Hart 32) : Result := .next { s with rvl32 := h }

/-- V16 goes on as `h`; RVL32 and the rest stay. -/
def State.next16 (s : State) (h : Hart 16) : Result := .next { s with v16 := h }

/-! ### CSRs -/

/-- The cell at a CSR index (10_state.md R30). -/
def State.csr (s : State) (i : BitVec 6) : CsrCell := s.csrs[i.toNat]'i.isLt

/-- What a cell holds; nothing is held where no CSR is, or none is described. -/
def CsrCell.held : CsrCell → Word32
  | .storage v | .supplied v _ _ => v
  | .absent | .external => 0#32

/-- A cell with the value held replaced; what kind of CSR it is, and its functions, stay. -/
def CsrCell.hold (v : Word32) : CsrCell → CsrCell
  | .absent => .absent
  | .storage _ => .storage v
  | .supplied _ read effect => .supplied v read effect
  | .external => .external

/-- The value of a platform's CSR function, from what the CSRs hold and the value written (log 12). -/
def State.csrEval (s : State) (written : Word32) : CsrExpr → Word32
  | .held i => CsrCell.held (s.csr i)
  | .written => written
  | .const v => v
  | .not a => ~~~(s.csrEval written a)
  | .and a b => s.csrEval written a &&& s.csrEval written b
  | .or a b => s.csrEval written a ||| s.csrEval written b
  | .add a b => s.csrEval written a + s.csrEval written b
  | .ifEq a b yes no =>
    if s.csrEval written a = s.csrEval written b then s.csrEval written yes else s.csrEval written no

/-- A cell after a write effect: its first entry in the list gives its new value (log 12). -/
def State.csrAfter (s : State) (written : Word32) (effect : List (BitVec 6 × CsrExpr)) (i : BitVec 6) : CsrCell :=
  match effect.find? fun e => e.1 == i with
  | some e => CsrCell.hold (s.csrEval written e.2) (s.csr i)
  | none => s.csr i

/-- The six CSR instructions' execution: the CSR must exist; then read, write `new(old)`, and `x[rd] <- old`, always
and in one step (10_state.md R31, 45_misc_mem_system.md R200). A CSR with functions reads and writes by them; one of
which nothing is said reads as a free value, and the accesses are handed to the platform (log 12). -/
def State.csrAccess (s : State) (rd : Reg32) (i : BitVec 6) (new : Word32 → Word32) : Result :=
  match s.csr i with
  | .absent => s.next32 (s.rvl32.raise (.undefinedCsr i.toNat))
  | .storage old => .next { s with
      csrs := s.csrs.set i.toNat (.storage (new old)) i.isLt
      rvl32 := s.rvl32.writeNext rd old }
  | .supplied _ read effect =>
    let old := s.csrEval 0#32 read
    .next { s with
      csrs := Vector.ofFn fun j => s.csrAfter (new old) effect (BitVec.ofNat 6 j.val)
      rvl32 := s.rvl32.writeNext rd old }
  | .external =>
    let old := Config.unspecified 32 s.rvl32.draws 32
    s.next32 ({ s.rvl32 with
      draws := s.rvl32.draws + 1
      io := .csrWrite i.toNat (new old) :: .csrRead i.toNat :: s.rvl32.io }.writeNext rd old)

/-! ### Placing an instruction for the next step -/

/-- A memory system under which a fetch of `width` bytes at `addr` is valid and reads ordinary memory. -/
def Platform.openFetch (p : Platform) (addr width : Nat) : Platform :=
  { p with
    windows := if p.valid .fetch addr width then p.windows else ⟨.fetch, width, addr, addr⟩ :: p.windows
    devices := p.devices.filter fun r => decide (addr + width ≤ r.first) || decide (r.last < addr) }

/-- The hart with a word where its next fetch reads it, and all that this fetch needs: an aligned pc, no fault, the
bytes valid, not a device's and not stored to. -/
def Hart.placeCode {n : Nat} (h : Hart n) (w : BitVec n) : Hart n :=
  let pc := BitVec.ofNat n (h.pc.toNat / ilen n * ilen n)
  let addrs := byteAddrs pc (ilen n)
  { h with
    pc := pc
    mem := (addrs.zip (leBytes w.toNat (ilen n))).foldl (fun m c => Memory.write m c.1 c.2) h.mem
    stored := h.stored.filter fun a => !addrs.contains a
    fault := none
    platform := Platform.openFetch h.platform pc.toNat (ilen n) }

end Sys2Proof.Machine
end

