-- ==== Sys2Proof/Machine/Operands.lean ====
section
/-! DEFINITION. Operand values: how each immediate is assembled (30_encoding.md R88, R105) and how an
effective address is computed (20_memory.md R57). -/

namespace Sys2Proof.Machine

/-- The RVL32 immediate of OP-IMM, loads and stores: `sext_32(imm12)` (30_encoding.md R88). -/
def immValue (imm12 : BitVec 12) : Word32 := imm12.signExtend 32

/-- The byte offset of branches and JALR: `sext_32(imm12) << 2` (30_encoding.md R88). -/
def immOffset (imm12 : BitVec 12) : Word32 := imm12.signExtend 32 <<< 2

/-- The byte offset of JAL: `sext_32(imm20) << 2` (40_upper_and_jumps.md R132). -/
def jalOffset (imm20 : BitVec 20) : Word32 := imm20.signExtend 32 <<< 2

/-- The operand of LUI and AUIPC: `imm20 ++ 0x000` (40_upper_and_jumps.md R130). -/
def upperValue (imm20 : BitVec 20) : Word32 := imm20 ++ 0x000#12

/-- The `#imm5` operand of CSRRWI, CSRRSI, CSRRCI, zero-extended (45_misc_mem_system.md R200). -/
def csrImmValue (imm5 : BitVec 5) : Word32 := imm5.setWidth 32

/-- The shift amount of SLL, SRL and SRA: the low five bits of `x[rs2]` (44_op.md R180). -/
def shiftAmount (v : Word32) : Nat := (v.extractLsb' 0 5).toNat

/-- The RVL32 effective address: base plus signed displacement (42_loads_stores.md R150). -/
def address32 (h : Hart 32) (rs1 : Reg32) (imm12 : BitVec 12) : Word32 := h.x rs1 + immValue imm12

/-- V16 LI's operand: `sext_16(imm8)` (48_v16_alu.md R250). -/
def imm8Value (imm8 : BitVec 8) : Word16 := imm8.signExtend 16

/-- V16 JAL's byte offset: `sext_16(imm8) << 1` (49_v16_control_memory.md R271). -/
def jalOffset16 (imm8 : BitVec 8) : Word16 := imm8.signExtend 16 <<< 1

/-- V16 ADDI's operand: sign- or zero-extended by `V16_IMM3_SIGNED` (48_v16_alu.md R253). -/
def imm3Value (signed : Bool) (imm3 : BitVec 3) : Word16 :=
  if signed then imm3.signExtend 16 else imm3.setWidth 16

/-- The V16 effective address: base plus an unscaled offset of 0 to 15 (49_v16_control_memory.md R279). -/
def address16 (h : Hart 16) (rs1 : Reg16) (imm4 : BitVec 4) : Word16 := h.x rs1 + imm4.setWidth 16

/-- The high byte of a V16 word, `%hi` (00_scope.md R12). -/
def highByte (v : Word16) : Byte := v.extractLsb' 8 8

/-- The low byte of a V16 word, `%lo` (00_scope.md R12). -/
def lowByte (v : Word16) : Byte := v.extractLsb' 0 8

end Sys2Proof.Machine
end

