-- ==== Sys2Proof/Machine/Branch.lean ====
section
/-! DEFINITION. RVL32 conditional branches (41_branches.md). -/

namespace Sys2Proof.Machine

/-- The six branches: the `rd` field names the first register compared, the `rs1` field the second; taken to
`pc + off`, else on to `pc + 4` (41_branches.md R140, R141). -/
def Hart.branch (h : Hart 32) (c : Cond) (rd rs1 : Reg32) (imm12 : BitVec 12) : Hart 32 :=
  h.jump (if c.holds (h.x rd) (h.x rs1) then h.pc + immOffset imm12 else h.nextPc)

/-- BEQ (41_branches.md R142). -/
def execBeq (rd rs1 : Reg32) (imm12 : BitVec 12) (s : State) : Result :=
  s.next32 (s.rvl32.branch .eq rd rs1 imm12)

/-- BNE (41_branches.md R143). -/
def execBne (rd rs1 : Reg32) (imm12 : BitVec 12) (s : State) : Result :=
  s.next32 (s.rvl32.branch .ne rd rs1 imm12)

/-- BLT (41_branches.md R144). -/
def execBlt (rd rs1 : Reg32) (imm12 : BitVec 12) (s : State) : Result :=
  s.next32 (s.rvl32.branch .lt rd rs1 imm12)

/-- BGE (41_branches.md R145). -/
def execBge (rd rs1 : Reg32) (imm12 : BitVec 12) (s : State) : Result :=
  s.next32 (s.rvl32.branch .ge rd rs1 imm12)

/-- BLTU (41_branches.md R146). -/
def execBltu (rd rs1 : Reg32) (imm12 : BitVec 12) (s : State) : Result :=
  s.next32 (s.rvl32.branch .ltu rd rs1 imm12)

/-- BGEU (41_branches.md R147). -/
def execBgeu (rd rs1 : Reg32) (imm12 : BitVec 12) (s : State) : Result :=
  s.next32 (s.rvl32.branch .geu rd rs1 imm12)

end Sys2Proof.Machine
end

