-- ==== Sys2Proof/Machine/LoadStore.lean ====
section
/-! DEFINITION. RVL32 loads and stores (42_loads_stores.md). -/

namespace Sys2Proof.Machine

/-- LB (42_loads_stores.md R152). -/
def execLb (rd rs1 : Reg32) (imm12 : BitVec 12) (s : State) : Result :=
  s.next32 (s.rvl32.loadInto rd (address32 s.rvl32 rs1 imm12) 1 fun v => v.signExtend 32)

/-- LH (42_loads_stores.md R153). -/
def execLh (rd rs1 : Reg32) (imm12 : BitVec 12) (s : State) : Result :=
  s.next32 (s.rvl32.loadInto rd (address32 s.rvl32 rs1 imm12) 2 fun v => v.signExtend 32)

/-- LW (42_loads_stores.md R154). -/
def execLw (rd rs1 : Reg32) (imm12 : BitVec 12) (s : State) : Result :=
  s.next32 (s.rvl32.loadInto rd (address32 s.rvl32 rs1 imm12) 4 fun v => v.setWidth 32)

/-- LBU (42_loads_stores.md R155). -/
def execLbu (rd rs1 : Reg32) (imm12 : BitVec 12) (s : State) : Result :=
  s.next32 (s.rvl32.loadInto rd (address32 s.rvl32 rs1 imm12) 1 fun v => v.setWidth 32)

/-- LHU (42_loads_stores.md R156). -/
def execLhu (rd rs1 : Reg32) (imm12 : BitVec 12) (s : State) : Result :=
  s.next32 (s.rvl32.loadInto rd (address32 s.rvl32 rs1 imm12) 2 fun v => v.setWidth 32)

/-- SB (42_loads_stores.md R158): the `rd` field names the register stored. -/
def execSb (rd rs1 : Reg32) (imm12 : BitVec 12) (s : State) : Result :=
  s.next32 (s.rvl32.storeFrom (s.rvl32.x rd) (address32 s.rvl32 rs1 imm12) 1)

/-- SH (42_loads_stores.md R159): the `rd` field names the register stored. -/
def execSh (rd rs1 : Reg32) (imm12 : BitVec 12) (s : State) : Result :=
  s.next32 (s.rvl32.storeFrom (s.rvl32.x rd) (address32 s.rvl32 rs1 imm12) 2)

/-- SW (42_loads_stores.md R160): the `rd` field names the register stored. -/
def execSw (rd rs1 : Reg32) (imm12 : BitVec 12) (s : State) : Result :=
  s.next32 (s.rvl32.storeFrom (s.rvl32.x rd) (address32 s.rvl32 rs1 imm12) 4)

end Sys2Proof.Machine
end

