-- ==== Sys2Proof/Machine/MulDiv.lean ====
section
/-! DEFINITION. RVL32 multiply and divide (46_muldiv.md R215): no fault for any operand values. -/

namespace Sys2Proof.Machine

/-- Bits [63:32] of an exact product taken as a 64-bit two's complement integer (46_muldiv.md R215). -/
def productHigh (p : Int) : Word32 := (BitVec.ofInt 64 p).extractLsb' 32 32

/-- The quotient of DIV: toward zero, with the results for a zero divisor and for `-2^31 / -1` (46_muldiv.md R220). -/
def divSigned (a b : Word32) : Word32 :=
  if b = 0x00000000#32 then 0xFFFFFFFF#32
  else if a = 0x80000000#32 ∧ b = 0xFFFFFFFF#32 then 0x80000000#32
  else BitVec.ofInt 32 (Int.tdiv a.toInt b.toInt)

/-- The quotient of DIVU (46_muldiv.md R221). -/
def divUnsigned (a b : Word32) : Word32 :=
  if b = 0x00000000#32 then 0xFFFFFFFF#32 else BitVec.ofNat 32 (a.toNat / b.toNat)

/-- The remainder of REM, with the sign of the dividend (46_muldiv.md R222). -/
def remSigned (a b : Word32) : Word32 :=
  if b = 0x00000000#32 then a
  else if a = 0x80000000#32 ∧ b = 0xFFFFFFFF#32 then 0x00000000#32
  else BitVec.ofInt 32 (a.toInt - b.toInt * Int.tdiv a.toInt b.toInt)

/-- The remainder of REMU (46_muldiv.md R223). -/
def remUnsigned (a b : Word32) : Word32 :=
  if b = 0x00000000#32 then a else BitVec.ofNat 32 (a.toNat % b.toNat)

/-- MUL: the low half of the product (46_muldiv.md R216). -/
def execMul (rd rs1 rs2 : Reg32) (s : State) : Result :=
  s.next32 (s.rvl32.writeNext rd (s.rvl32.x rs1 * s.rvl32.x rs2))

/-- MULH: signed by signed (46_muldiv.md R217). -/
def execMulh (rd rs1 rs2 : Reg32) (s : State) : Result :=
  s.next32 (s.rvl32.writeNext rd (productHigh ((s.rvl32.x rs1).toInt * (s.rvl32.x rs2).toInt)))

/-- MULHSU: `x[rs1]` signed, `x[rs2]` unsigned (46_muldiv.md R218). -/
def execMulhsu (rd rs1 rs2 : Reg32) (s : State) : Result :=
  s.next32 (s.rvl32.writeNext rd (productHigh ((s.rvl32.x rs1).toInt * (s.rvl32.x rs2).toNat)))

/-- MULHU: unsigned by unsigned (46_muldiv.md R219). -/
def execMulhu (rd rs1 rs2 : Reg32) (s : State) : Result :=
  s.next32 (s.rvl32.writeNext rd (productHigh ((s.rvl32.x rs1).toNat * (s.rvl32.x rs2).toNat)))

/-- DIV (46_muldiv.md R220). -/
def execDiv (rd rs1 rs2 : Reg32) (s : State) : Result :=
  s.next32 (s.rvl32.writeNext rd (divSigned (s.rvl32.x rs1) (s.rvl32.x rs2)))

/-- DIVU (46_muldiv.md R221). -/
def execDivu (rd rs1 rs2 : Reg32) (s : State) : Result :=
  s.next32 (s.rvl32.writeNext rd (divUnsigned (s.rvl32.x rs1) (s.rvl32.x rs2)))

/-- REM (46_muldiv.md R222). -/
def execRem (rd rs1 rs2 : Reg32) (s : State) : Result :=
  s.next32 (s.rvl32.writeNext rd (remSigned (s.rvl32.x rs1) (s.rvl32.x rs2)))

/-- REMU (46_muldiv.md R223). -/
def execRemu (rd rs1 rs2 : Reg32) (s : State) : Result :=
  s.next32 (s.rvl32.writeNext rd (remUnsigned (s.rvl32.x rs1) (s.rvl32.x rs2)))

end Sys2Proof.Machine
end

