-- ==== Sys2Proof/Machine/Op.lean ====
section
/-! DEFINITION. RVL32 register-register instructions (44_op.md R180). -/

namespace Sys2Proof.Machine

/-- ADD (44_op.md R181). -/
def execAdd (rd rs1 rs2 : Reg32) (s : State) : Result :=
  s.next32 (s.rvl32.writeNext rd (s.rvl32.x rs1 + s.rvl32.x rs2))

/-- SUB (44_op.md R182). -/
def execSub (rd rs1 rs2 : Reg32) (s : State) : Result :=
  s.next32 (s.rvl32.writeNext rd (s.rvl32.x rs1 - s.rvl32.x rs2))

/-- SLL (44_op.md R183). -/
def execSll (rd rs1 rs2 : Reg32) (s : State) : Result :=
  s.next32 (s.rvl32.writeNext rd (s.rvl32.x rs1 <<< shiftAmount (s.rvl32.x rs2)))

/-- SLT (44_op.md R184). -/
def execSlt (rd rs1 rs2 : Reg32) (s : State) : Result :=
  s.next32 (s.rvl32.writeNext rd (boolWord 32 (Cond.lt.holds (s.rvl32.x rs1) (s.rvl32.x rs2))))

/-- SLTU (44_op.md R185). -/
def execSltu (rd rs1 rs2 : Reg32) (s : State) : Result :=
  s.next32 (s.rvl32.writeNext rd (boolWord 32 (Cond.ltu.holds (s.rvl32.x rs1) (s.rvl32.x rs2))))

/-- XOR (44_op.md R186). -/
def execXor (rd rs1 rs2 : Reg32) (s : State) : Result :=
  s.next32 (s.rvl32.writeNext rd (s.rvl32.x rs1 ^^^ s.rvl32.x rs2))

/-- SRL (44_op.md R187). -/
def execSrl (rd rs1 rs2 : Reg32) (s : State) : Result :=
  s.next32 (s.rvl32.writeNext rd (s.rvl32.x rs1 >>> shiftAmount (s.rvl32.x rs2)))

/-- SRA (44_op.md R188). -/
def execSra (rd rs1 rs2 : Reg32) (s : State) : Result :=
  s.next32 (s.rvl32.writeNext rd ((s.rvl32.x rs1).sshiftRight (shiftAmount (s.rvl32.x rs2))))

/-- OR (44_op.md R189). -/
def execOr (rd rs1 rs2 : Reg32) (s : State) : Result :=
  s.next32 (s.rvl32.writeNext rd (s.rvl32.x rs1 ||| s.rvl32.x rs2))

/-- AND (44_op.md R190). -/
def execAnd (rd rs1 rs2 : Reg32) (s : State) : Result :=
  s.next32 (s.rvl32.writeNext rd (s.rvl32.x rs1 &&& s.rvl32.x rs2))

end Sys2Proof.Machine
end

