-- ==== Sys2Proof/Machine/OpImm.lean ====
section
/-! DEFINITION. RVL32 register-immediate instructions (43_op_imm.md R165: all six immediates are sign-extended). -/

namespace Sys2Proof.Machine

/-- ADDI (43_op_imm.md R166). -/
def execAddi (rd rs1 : Reg32) (imm12 : BitVec 12) (s : State) : Result :=
  s.next32 (s.rvl32.writeNext rd (s.rvl32.x rs1 + immValue imm12))

/-- SLTI (43_op_imm.md R167). -/
def execSlti (rd rs1 : Reg32) (imm12 : BitVec 12) (s : State) : Result :=
  s.next32 (s.rvl32.writeNext rd (boolWord 32 (Cond.lt.holds (s.rvl32.x rs1) (immValue imm12))))

/-- SLTIU (43_op_imm.md R168). -/
def execSltiu (rd rs1 : Reg32) (imm12 : BitVec 12) (s : State) : Result :=
  s.next32 (s.rvl32.writeNext rd (boolWord 32 (Cond.ltu.holds (s.rvl32.x rs1) (immValue imm12))))

/-- XORI (43_op_imm.md R169). -/
def execXori (rd rs1 : Reg32) (imm12 : BitVec 12) (s : State) : Result :=
  s.next32 (s.rvl32.writeNext rd (s.rvl32.x rs1 ^^^ immValue imm12))

/-- ORI (43_op_imm.md R170). -/
def execOri (rd rs1 : Reg32) (imm12 : BitVec 12) (s : State) : Result :=
  s.next32 (s.rvl32.writeNext rd (s.rvl32.x rs1 ||| immValue imm12))

/-- ANDI (43_op_imm.md R171). -/
def execAndi (rd rs1 : Reg32) (imm12 : BitVec 12) (s : State) : Result :=
  s.next32 (s.rvl32.writeNext rd (s.rvl32.x rs1 &&& immValue imm12))

/-- SLLI (43_op_imm.md R172). -/
def execSlli (rd rs1 : Reg32) (imm5 : BitVec 5) (s : State) : Result :=
  s.next32 (s.rvl32.writeNext rd (s.rvl32.x rs1 <<< imm5.toNat))

/-- SRLI (43_op_imm.md R173). -/
def execSrli (rd rs1 : Reg32) (imm5 : BitVec 5) (s : State) : Result :=
  s.next32 (s.rvl32.writeNext rd (s.rvl32.x rs1 >>> imm5.toNat))

/-- SRAI (43_op_imm.md R174). -/
def execSrai (rd rs1 : Reg32) (imm5 : BitVec 5) (s : State) : Result :=
  s.next32 (s.rvl32.writeNext rd ((s.rvl32.x rs1).sshiftRight imm5.toNat))

end Sys2Proof.Machine
end

