-- ==== Sys2Proof/Machine/System.lean ====
section
/-! DEFINITION. RVL32 MISC-MEM and SYSTEM instructions (45_misc_mem_system.md). -/

namespace Sys2Proof.Machine

/-- FENCE raises `Unimplemented(w)`, `w` its own word with the ignored bits (45_misc_mem_system.md R194, R195). -/
def execFence (hi : BitVec 17) (mid : BitVec 5) (s : State) : Result :=
  s.next32 (s.rvl32.raise (.unimplemented (encode (.fence hi mid)).toNat))

/-- FENCE.I raises `Unimplemented(w)` (45_misc_mem_system.md R194, R196). -/
def execFenceI (hi : BitVec 17) (mid : BitVec 5) (s : State) : Result :=
  s.next32 (s.rvl32.raise (.unimplemented (encode (.fenceI hi mid)).toNat))

/-- ECALL raises `Unimplemented(0x00000073)` (45_misc_mem_system.md R194, R197). -/
def execEcall (s : State) : Result :=
  s.next32 (s.rvl32.raise (.unimplemented (encode (.ecall)).toNat))

/-- EBREAK raises `Unimplemented(0x00100073)` (45_misc_mem_system.md R194, R198). -/
def execEbreak (s : State) : Result :=
  s.next32 (s.rvl32.raise (.unimplemented (encode (.ebreak)).toNat))

/-- WFI: `waiting <- true`, and the pc moves on; the wait itself is `step`'s (45_misc_mem_system.md R199). -/
def execWfi (s : State) : Result :=
  .next { s with waiting := true, rvl32 := s.rvl32.advance }

/-- CSRRW: `new(old, src) = src` (45_misc_mem_system.md R201). -/
def execCsrrw (rd rs1 : Reg32) (csr : BitVec 6) (s : State) : Result :=
  s.csrAccess rd csr fun _ => s.rvl32.x rs1

/-- CSRRS: `new(old, src) = old | src` (45_misc_mem_system.md R202). -/
def execCsrrs (rd rs1 : Reg32) (csr : BitVec 6) (s : State) : Result :=
  s.csrAccess rd csr fun old => old ||| s.rvl32.x rs1

/-- CSRRC: `new(old, src) = old & ~src` (45_misc_mem_system.md R203). -/
def execCsrrc (rd rs1 : Reg32) (csr : BitVec 6) (s : State) : Result :=
  s.csrAccess rd csr fun old => old &&& ~~~(s.rvl32.x rs1)

/-- CSRRWI: `new(old, src) = src` (45_misc_mem_system.md R204). -/
def execCsrrwi (rd : Reg32) (imm5 : BitVec 5) (csr : BitVec 6) (s : State) : Result :=
  s.csrAccess rd csr fun _ => csrImmValue imm5

/-- CSRRSI: `new(old, src) = old | src` (45_misc_mem_system.md R205). -/
def execCsrrsi (rd : Reg32) (imm5 : BitVec 5) (csr : BitVec 6) (s : State) : Result :=
  s.csrAccess rd csr fun old => old ||| csrImmValue imm5

/-- CSRRCI: `new(old, src) = old & ~src` (45_misc_mem_system.md R206). -/
def execCsrrci (rd : Reg32) (imm5 : BitVec 5) (csr : BitVec 6) (s : State) : Result :=
  s.csrAccess rd csr fun old => old &&& ~~~(csrImmValue imm5)

end Sys2Proof.Machine
end

