-- ==== Sys2Proof/Machine/UpperJump.lean ====
section
/-! DEFINITION. RVL32 upper immediates and jumps (40_upper_and_jumps.md). -/

namespace Sys2Proof.Machine

/-- LUI: `x[rd] <- imm20 ++ 0x000` (40_upper_and_jumps.md R130). -/
def execLui (rd : Reg32) (imm20 : BitVec 20) (s : State) : Result :=
  s.next32 (s.rvl32.writeNext rd (upperValue imm20))

/-- AUIPC: `x[rd] <- pc + (imm20 ++ 0x000)`, pc the AUIPC's own address (40_upper_and_jumps.md R131). -/
def execAuipc (rd : Reg32) (imm20 : BitVec 20) (s : State) : Result :=
  s.next32 (s.rvl32.writeNext rd (s.rvl32.pc + upperValue imm20))

/-- JAL: link to `pc + 4`, jump to `pc + off` (40_upper_and_jumps.md R132). -/
def execJal (rd : Reg32) (imm20 : BitVec 20) (s : State) : Result :=
  s.next32 (s.rvl32.link rd (s.rvl32.pc + jalOffset imm20))

/-- JALR: link to `pc + 4`, jump to `x[rs1] + off`, which must be a multiple of 4; no bit is cleared
(40_upper_and_jumps.md R134). -/
def execJalr (rd rs1 : Reg32) (imm12 : BitVec 12) (s : State) : Result :=
  s.next32 (s.rvl32.linkAligned rd (s.rvl32.x rs1 + immOffset imm12))

end Sys2Proof.Machine
end

