-- ==== Sys2Proof/Machine/V16Alu.lean ====
section
/-! DEFINITION. V16 arithmetic, logic, shift and constant instructions (48_v16_alu.md). -/

namespace Sys2Proof.Machine

/-- V16 SRL's result by a signed amount: right for 0 to 15, left for -15 to -1, zeros entering; no value is stated for
any other amount (48_v16_alu.md R245). -/
def shiftLogical (a amount : Word16) : Option Word16 :=
  let n := amount.toInt
  if 0 ≤ n ∧ n ≤ 15 then some (a >>> n.toNat)
  else if -15 ≤ n ∧ n < 0 then some (a <<< (-n).toNat)
  else none

/-- V16 SRA's result by a signed amount: copies of bit 15 enter on the right shift, copies of bit 0 on the left one; no
value is stated for any other amount (48_v16_alu.md R246). -/
def shiftArithmetic (a amount : Word16) : Option Word16 :=
  let n := amount.toInt
  if 0 ≤ n ∧ n ≤ 15 then some (a.sshiftRight n.toNat)
  else if -15 ≤ n ∧ n < 0 then
    let m := (-n).toNat
    some ((a <<< m) ||| (if a.getLsbD 0 then BitVec.ofNat 16 (2 ^ m - 1) else 0#16))
  else none

/-- `x[rd] <-` the shift's result, or `unspecified_16()` where none is stated (48_v16_alu.md R245, R246; log 8). -/
def Hart.shiftNext (h : Hart 16) (rd : Reg16) (result : Option Word16) : Hart 16 :=
  match result with
  | some v => h.writeNext rd v
  | none => h.drawNext rd

/-- V16 AND (48_v16_alu.md R241). -/
def execV16And (rd rs1 rs2 : Reg16) (s : State) : Result :=
  s.next16 (s.v16.writeNext rd (s.v16.x rs1 &&& s.v16.x rs2))

/-- V16 OR (48_v16_alu.md R242). -/
def execV16Or (rd rs1 rs2 : Reg16) (s : State) : Result :=
  s.next16 (s.v16.writeNext rd (s.v16.x rs1 ||| s.v16.x rs2))

/-- V16 XOR (48_v16_alu.md R243). -/
def execV16Xor (rd rs1 rs2 : Reg16) (s : State) : Result :=
  s.next16 (s.v16.writeNext rd (s.v16.x rs1 ^^^ s.v16.x rs2))

/-- V16 NOT: the `rs2` field 0 of XOR selects the complement (48_v16_alu.md R244). -/
def execV16Not (rd rs1 : Reg16) (s : State) : Result :=
  s.next16 (s.v16.writeNext rd (~~~(s.v16.x rs1)))

/-- V16 SRL, by a signed register amount (48_v16_alu.md R245). -/
def execV16Srl (rd rs1 rs2 : Reg16) (s : State) : Result :=
  s.next16 (s.v16.shiftNext rd (shiftLogical (s.v16.x rs1) (s.v16.x rs2)))

/-- V16 SRA, by a signed register amount (48_v16_alu.md R246). -/
def execV16Sra (rd rs1 rs2 : Reg16) (s : State) : Result :=
  s.next16 (s.v16.shiftNext rd (shiftArithmetic (s.v16.x rs1) (s.v16.x rs2)))

/-- V16 SWP: the two bytes exchanged (48_v16_alu.md R247). -/
def execV16Swp (rd rs1 : Reg16) (s : State) : Result :=
  s.next16 (s.v16.writeNext rd (lowByte (s.v16.x rs1) ++ highByte (s.v16.x rs1)))

/-- V16 ADD (48_v16_alu.md R248). -/
def execV16Add (rd rs1 rs2 : Reg16) (s : State) : Result :=
  s.next16 (s.v16.writeNext rd (s.v16.x rs1 + s.v16.x rs2))

/-- V16 SUB (48_v16_alu.md R249). -/
def execV16Sub (rd rs1 rs2 : Reg16) (s : State) : Result :=
  s.next16 (s.v16.writeNext rd (s.v16.x rs1 - s.v16.x rs2))

/-- V16 LI (48_v16_alu.md R250). -/
def execV16Li (rd : Reg16) (imm8 : BitVec 8) (s : State) : Result :=
  s.next16 (s.v16.writeNext rd (imm8Value imm8))

/-- V16 LUI: the high byte replaced, the low byte of `x[rd]` kept (48_v16_alu.md R251). -/
def execV16Lui (rd : Reg16) (imm8 : BitVec 8) (s : State) : Result :=
  s.next16 (s.v16.writeNext rd (imm8 ++ lowByte (s.v16.x rd)))

/-- V16 AUIPC: the high byte of the pc plus `imm8` modulo 256, the low byte of `x[rd]` kept (48_v16_alu.md R252). -/
def execV16Auipc (rd : Reg16) (imm8 : BitVec 8) (s : State) : Result :=
  s.next16 (s.v16.writeNext rd ((highByte s.v16.pc + imm8) ++ lowByte (s.v16.x rd)))

/-- V16 ADDI, its immediate extended by `V16_IMM3_SIGNED` (48_v16_alu.md R253). -/
def execV16Addi (rd rs1 : Reg16) (imm3 : BitVec 3) (s : State) : Result :=
  s.next16 (s.v16.writeNext rd (s.v16.x rs1 + imm3Value s.imm3Signed imm3))

end Sys2Proof.Machine
end

