-- ==== Sys2Proof/Machine/V16Control.lean ====
section
/-! DEFINITION. V16 control transfer, conditional execution, loads, stores (49_v16_control_memory.md) and the FREE words
(30_encoding.md R110). -/

namespace Sys2Proof.Machine

/-- The six IFxxx: on to the next instruction when the condition holds, else past it, which is then never fetched
(49_v16_control_memory.md R269). -/
def Hart.ifNext (h : Hart 16) (c : Cond) (rd rs1 : Reg16) : Hart 16 :=
  h.jump (if c.holds (h.x rd) (h.x rs1) then h.nextPc else h.nextPc + BitVec.ofNat 16 (ilen 16))

/-- V16 JAL: link to `pc + 2`, jump to `pc + off` (49_v16_control_memory.md R271). -/
def execV16Jal (rd : Reg16) (imm8 : BitVec 8) (s : State) : Result :=
  s.next16 (s.v16.link rd (s.v16.pc + jalOffset16 imm8))

/-- V16 JALR: link to `pc + 2`, jump to `x[rs1]`, which must be even (49_v16_control_memory.md R272). -/
def execV16Jalr (rd rs1 : Reg16) (s : State) : Result :=
  s.next16 (s.v16.linkAligned rd (s.v16.x rs1))

/-- V16 IFEQ (49_v16_control_memory.md R273). -/
def execV16IfEq (rd rs1 : Reg16) (s : State) : Result :=
  s.next16 (s.v16.ifNext .eq rd rs1)

/-- V16 IFNE (49_v16_control_memory.md R274). -/
def execV16IfNe (rd rs1 : Reg16) (s : State) : Result :=
  s.next16 (s.v16.ifNext .ne rd rs1)

/-- V16 IFLT (49_v16_control_memory.md R275). -/
def execV16IfLt (rd rs1 : Reg16) (s : State) : Result :=
  s.next16 (s.v16.ifNext .lt rd rs1)

/-- V16 IFGE (49_v16_control_memory.md R276). -/
def execV16IfGe (rd rs1 : Reg16) (s : State) : Result :=
  s.next16 (s.v16.ifNext .ge rd rs1)

/-- V16 IFLTU (49_v16_control_memory.md R277). -/
def execV16IfLtu (rd rs1 : Reg16) (s : State) : Result :=
  s.next16 (s.v16.ifNext .ltu rd rs1)

/-- V16 IFGEU (49_v16_control_memory.md R278). -/
def execV16IfGeu (rd rs1 : Reg16) (s : State) : Result :=
  s.next16 (s.v16.ifNext .geu rd rs1)

/-- V16 LW (49_v16_control_memory.md R280). -/
def execV16Lw (rd rs1 : Reg16) (imm4 : BitVec 4) (s : State) : Result :=
  s.next16 (s.v16.loadInto rd (address16 s.v16 rs1 imm4) 2 fun v => v.setWidth 16)

/-- V16 SW: the `rd` field names the register stored (49_v16_control_memory.md R281). -/
def execV16Sw (rd rs1 : Reg16) (imm4 : BitVec 4) (s : State) : Result :=
  s.next16 (s.v16.storeFrom (s.v16.x rd) (address16 s.v16 rs1 imm4) 2)

/-- V16 LB (49_v16_control_memory.md R282). -/
def execV16Lb (rd rs1 : Reg16) (imm4 : BitVec 4) (s : State) : Result :=
  s.next16 (s.v16.loadInto rd (address16 s.v16 rs1 imm4) 1 fun v => v.signExtend 16)

/-- V16 SB: the `rd` field names the register stored (49_v16_control_memory.md R283). -/
def execV16Sb (rd rs1 : Reg16) (imm4 : BitVec 4) (s : State) : Result :=
  s.next16 (s.v16.storeFrom (s.v16.x rd) (address16 s.v16 rs1 imm4) 1)

/-- A V16 FREE word raises `IllegalInstruction(w)` (30_encoding.md R110, 60_exceptions.md R303). -/
def execV16Free0 (rd rs1 : Reg16) (s : State) : Result :=
  s.next16 (s.v16.raise (.illegalInstruction (encode (.v16Free0 rd rs1)).toNat))

/-- A V16 FREE word raises `IllegalInstruction(w)` (30_encoding.md R110, 60_exceptions.md R303). -/
def execV16Free1 (rd rs1 : Reg16) (s : State) : Result :=
  s.next16 (s.v16.raise (.illegalInstruction (encode (.v16Free1 rd rs1)).toNat))

/-- A V16 FREE word raises `IllegalInstruction(w)` (30_encoding.md R110, 60_exceptions.md R303). -/
def execV16Free3 (rd rs1 : Reg16) (s : State) : Result :=
  s.next16 (s.v16.raise (.illegalInstruction (encode (.v16Free3 rd rs1)).toNat))

/-- A V16 FREE word raises `IllegalInstruction(w)` (30_encoding.md R110, 60_exceptions.md R303). -/
def execV16Free8 (imm8 : BitVec 8) (s : State) : Result :=
  s.next16 (s.v16.raise (.illegalInstruction (encode (.v16Free8 imm8)).toNat))

/-- A V16 FREE word raises `IllegalInstruction(w)` (30_encoding.md R110, 60_exceptions.md R303). -/
def execV16Free9 (imm8 : BitVec 8) (s : State) : Result :=
  s.next16 (s.v16.raise (.illegalInstruction (encode (.v16Free9 imm8)).toNat))

/-- A V16 FREE word raises `IllegalInstruction(w)` (30_encoding.md R110, 60_exceptions.md R303). -/
def execV16Free10 (imm8 : BitVec 8) (s : State) : Result :=
  s.next16 (s.v16.raise (.illegalInstruction (encode (.v16Free10 imm8)).toNat))

/-- A V16 FREE word raises `IllegalInstruction(w)` (30_encoding.md R110, 60_exceptions.md R303). -/
def execV16Free15 (rd rs1 : Reg16) (s : State) : Result :=
  s.next16 (s.v16.raise (.illegalInstruction (encode (.v16Free15 rd rs1)).toNat))

end Sys2Proof.Machine
end

