-- ==== Sys2Proof/Machine/Dispatch.lean ====
section
/-! DEFINITION. Every constructor of `Instr` to its meaning. An RVL32 meaning acts on the RVL32 machine and a V16
meaning on the V16 machine, whichever the next step belongs to (log 19). -/

namespace Sys2Proof.Machine

/-- The meaning of an instruction. -/
def exec (i : Instr) (s : State) : Host.Outcome State Fault Refusal :=
  match i with
  | .lui rd imm20 => Sys2Proof.Machine.execLui rd imm20 s
  | .auipc rd imm20 => Sys2Proof.Machine.execAuipc rd imm20 s
  | .jal rd imm20 => Sys2Proof.Machine.execJal rd imm20 s
  | .jalr rd rs1 imm12 => Sys2Proof.Machine.execJalr rd rs1 imm12 s
  | .beq rd rs1 imm12 => Sys2Proof.Machine.execBeq rd rs1 imm12 s
  | .bne rd rs1 imm12 => Sys2Proof.Machine.execBne rd rs1 imm12 s
  | .blt rd rs1 imm12 => Sys2Proof.Machine.execBlt rd rs1 imm12 s
  | .bge rd rs1 imm12 => Sys2Proof.Machine.execBge rd rs1 imm12 s
  | .bltu rd rs1 imm12 => Sys2Proof.Machine.execBltu rd rs1 imm12 s
  | .bgeu rd rs1 imm12 => Sys2Proof.Machine.execBgeu rd rs1 imm12 s
  | .lb rd rs1 imm12 => Sys2Proof.Machine.execLb rd rs1 imm12 s
  | .lh rd rs1 imm12 => Sys2Proof.Machine.execLh rd rs1 imm12 s
  | .lw rd rs1 imm12 => Sys2Proof.Machine.execLw rd rs1 imm12 s
  | .lbu rd rs1 imm12 => Sys2Proof.Machine.execLbu rd rs1 imm12 s
  | .lhu rd rs1 imm12 => Sys2Proof.Machine.execLhu rd rs1 imm12 s
  | .sb rd rs1 imm12 => Sys2Proof.Machine.execSb rd rs1 imm12 s
  | .sh rd rs1 imm12 => Sys2Proof.Machine.execSh rd rs1 imm12 s
  | .sw rd rs1 imm12 => Sys2Proof.Machine.execSw rd rs1 imm12 s
  | .addi rd rs1 imm12 => Sys2Proof.Machine.execAddi rd rs1 imm12 s
  | .slti rd rs1 imm12 => Sys2Proof.Machine.execSlti rd rs1 imm12 s
  | .sltiu rd rs1 imm12 => Sys2Proof.Machine.execSltiu rd rs1 imm12 s
  | .xori rd rs1 imm12 => Sys2Proof.Machine.execXori rd rs1 imm12 s
  | .ori rd rs1 imm12 => Sys2Proof.Machine.execOri rd rs1 imm12 s
  | .andi rd rs1 imm12 => Sys2Proof.Machine.execAndi rd rs1 imm12 s
  | .slli rd rs1 imm5 => Sys2Proof.Machine.execSlli rd rs1 imm5 s
  | .srli rd rs1 imm5 => Sys2Proof.Machine.execSrli rd rs1 imm5 s
  | .srai rd rs1 imm5 => Sys2Proof.Machine.execSrai rd rs1 imm5 s
  | .add rd rs1 rs2 => Sys2Proof.Machine.execAdd rd rs1 rs2 s
  | .sub rd rs1 rs2 => Sys2Proof.Machine.execSub rd rs1 rs2 s
  | .sll rd rs1 rs2 => Sys2Proof.Machine.execSll rd rs1 rs2 s
  | .slt rd rs1 rs2 => Sys2Proof.Machine.execSlt rd rs1 rs2 s
  | .sltu rd rs1 rs2 => Sys2Proof.Machine.execSltu rd rs1 rs2 s
  | .xor rd rs1 rs2 => Sys2Proof.Machine.execXor rd rs1 rs2 s
  | .srl rd rs1 rs2 => Sys2Proof.Machine.execSrl rd rs1 rs2 s
  | .sra rd rs1 rs2 => Sys2Proof.Machine.execSra rd rs1 rs2 s
  | .or rd rs1 rs2 => Sys2Proof.Machine.execOr rd rs1 rs2 s
  | .and rd rs1 rs2 => Sys2Proof.Machine.execAnd rd rs1 rs2 s
  | .fence hi mid => Sys2Proof.Machine.execFence hi mid s
  | .fenceI hi mid => Sys2Proof.Machine.execFenceI hi mid s
  | .ecall => Sys2Proof.Machine.execEcall s
  | .ebreak => Sys2Proof.Machine.execEbreak s
  | .wfi => Sys2Proof.Machine.execWfi s
  | .csrrw rd rs1 csr => Sys2Proof.Machine.execCsrrw rd rs1 csr s
  | .csrrs rd rs1 csr => Sys2Proof.Machine.execCsrrs rd rs1 csr s
  | .csrrc rd rs1 csr => Sys2Proof.Machine.execCsrrc rd rs1 csr s
  | .csrrwi rd imm5 csr => Sys2Proof.Machine.execCsrrwi rd imm5 csr s
  | .csrrsi rd imm5 csr => Sys2Proof.Machine.execCsrrsi rd imm5 csr s
  | .csrrci rd imm5 csr => Sys2Proof.Machine.execCsrrci rd imm5 csr s
  | .mul rd rs1 rs2 => Sys2Proof.Machine.execMul rd rs1 rs2 s
  | .mulh rd rs1 rs2 => Sys2Proof.Machine.execMulh rd rs1 rs2 s
  | .mulhsu rd rs1 rs2 => Sys2Proof.Machine.execMulhsu rd rs1 rs2 s
  | .mulhu rd rs1 rs2 => Sys2Proof.Machine.execMulhu rd rs1 rs2 s
  | .div rd rs1 rs2 => Sys2Proof.Machine.execDiv rd rs1 rs2 s
  | .divu rd rs1 rs2 => Sys2Proof.Machine.execDivu rd rs1 rs2 s
  | .rem rd rs1 rs2 => Sys2Proof.Machine.execRem rd rs1 rs2 s
  | .remu rd rs1 rs2 => Sys2Proof.Machine.execRemu rd rs1 rs2 s
  | .v16And rd rs1 rs2 => Sys2Proof.Machine.execV16And rd rs1 rs2 s
  | .v16Or rd rs1 rs2 => Sys2Proof.Machine.execV16Or rd rs1 rs2 s
  | .v16Xor rd rs1 rs2 => Sys2Proof.Machine.execV16Xor rd rs1 rs2 s
  | .v16Not rd rs1 => Sys2Proof.Machine.execV16Not rd rs1 s
  | .v16Srl rd rs1 rs2 => Sys2Proof.Machine.execV16Srl rd rs1 rs2 s
  | .v16Sra rd rs1 rs2 => Sys2Proof.Machine.execV16Sra rd rs1 rs2 s
  | .v16Swp rd rs1 => Sys2Proof.Machine.execV16Swp rd rs1 s
  | .v16Add rd rs1 rs2 => Sys2Proof.Machine.execV16Add rd rs1 rs2 s
  | .v16Sub rd rs1 rs2 => Sys2Proof.Machine.execV16Sub rd rs1 rs2 s
  | .v16Jal rd imm8 => Sys2Proof.Machine.execV16Jal rd imm8 s
  | .v16Li rd imm8 => Sys2Proof.Machine.execV16Li rd imm8 s
  | .v16Lui rd imm8 => Sys2Proof.Machine.execV16Lui rd imm8 s
  | .v16Auipc rd imm8 => Sys2Proof.Machine.execV16Auipc rd imm8 s
  | .v16Lw rd rs1 imm4 => Sys2Proof.Machine.execV16Lw rd rs1 imm4 s
  | .v16Sw rd rs1 imm4 => Sys2Proof.Machine.execV16Sw rd rs1 imm4 s
  | .v16Lb rd rs1 imm4 => Sys2Proof.Machine.execV16Lb rd rs1 imm4 s
  | .v16Sb rd rs1 imm4 => Sys2Proof.Machine.execV16Sb rd rs1 imm4 s
  | .v16Jalr rd rs1 => Sys2Proof.Machine.execV16Jalr rd rs1 s
  | .v16IfEq rd rs1 => Sys2Proof.Machine.execV16IfEq rd rs1 s
  | .v16IfNe rd rs1 => Sys2Proof.Machine.execV16IfNe rd rs1 s
  | .v16IfLt rd rs1 => Sys2Proof.Machine.execV16IfLt rd rs1 s
  | .v16IfGe rd rs1 => Sys2Proof.Machine.execV16IfGe rd rs1 s
  | .v16IfLtu rd rs1 => Sys2Proof.Machine.execV16IfLtu rd rs1 s
  | .v16IfGeu rd rs1 => Sys2Proof.Machine.execV16IfGeu rd rs1 s
  | .v16Addi rd rs1 imm3 => Sys2Proof.Machine.execV16Addi rd rs1 imm3 s
  | .v16Free0 rd rs1 => Sys2Proof.Machine.execV16Free0 rd rs1 s
  | .v16Free1 rd rs1 => Sys2Proof.Machine.execV16Free1 rd rs1 s
  | .v16Free3 rd rs1 => Sys2Proof.Machine.execV16Free3 rd rs1 s
  | .v16Free8 imm8 => Sys2Proof.Machine.execV16Free8 imm8 s
  | .v16Free9 imm8 => Sys2Proof.Machine.execV16Free9 imm8 s
  | .v16Free10 imm8 => Sys2Proof.Machine.execV16Free10 imm8 s
  | .v16Free15 rd rs1 => Sys2Proof.Machine.execV16Free15 rd rs1 s

end Sys2Proof.Machine
end

