-- ==== Sys2Proof/Machine/Run.lean ====
section
/-! DEFINITION. What a step of a machine that is not stuck does: wait, or fetch, decode and execute
(60_exceptions.md R306; 45_misc_mem_system.md R199). -/

namespace Sys2Proof.Machine

/-- A step taken while RVL32 waits: it reads `wake`; true ends the wait and does nothing else, false changes nothing
(45_misc_mem_system.md R199; log 11). -/
def State.waitStep (s : State) : State :=
  match s.wake with
  | [] => s
  | false :: rest => { s with wake := rest }
  | true :: rest => { s with wake := rest, waiting := false }

/-- An RVL32 step that fetches: R306's order of fetch faults, decode, then the instruction. -/
def State.run32 (s : State) : Result :=
  match s.rvl32.fetch with
  | .error f => s.next32 (s.rvl32.raise f)
  | .ok (w, h) =>
    match decode (.rvl32 w) with
    | .error _ => s.next32 (h.raise (.illegalInstruction w.toNat))
    | .ok i => exec i { s with rvl32 := h }

/-- A V16 step that fetches. -/
def State.run16 (s : State) : Result :=
  match s.v16.fetch with
  | .error f => s.next16 (s.v16.raise f)
  | .ok (w, h) =>
    match decode (.v16 w) with
    | .error _ => s.next16 (h.raise (.illegalInstruction w.toNat))
    | .ok i => exec i { s with v16 := h }

/-- A step of RVL32. In the terminal fault it is stuck: nothing changes (60_exceptions.md R301). -/
def State.step32 (s : State) : Result :=
  if s.rvl32.fault.isSome then .next s
  else if s.waiting then .next s.waitStep
  else s.run32

/-- A step of V16, which never waits (10_state.md R43). -/
def State.step16 (s : State) : Result :=
  if s.v16.fault.isSome then .next s else s.run16

end Sys2Proof.Machine
end

