-- ==== Sys2Proof/Machine/Step.lean ====
section
/-! DEFINITION. One step of the machine whose turn it is, and where its next instruction is put. -/

namespace Sys2Proof.Machine

/-- One step of the selected machine (00_scope.md R1; log 1). -/
def step (s : State) : Host.Outcome State Fault Refusal :=
  match s.isa with
  | .rvl32 => s.step32
  | .v16 => s.step16

/-- The state with a table row's word where the next step fetches: a word of 16 bits is V16's, a wider one RVL32's; the
step's machine is selected and all that the fetch needs is set (`Hart.placeCode`; log 20). -/
def State.withFetchWord (s : State) (nbits w : Nat) : State :=
  if nbits ≤ 16 then { s with isa := .v16, v16 := s.v16.placeCode (BitVec.ofNat 16 w) }
  else { s with isa := .rvl32, waiting := false, rvl32 := s.rvl32.placeCode (BitVec.ofNat 32 w) }

end Sys2Proof.Machine
end

