-- ==== Sys2Proof/Machine/Pseudo.lean ====
section
/-! DEFINITION. Pseudo-instructions and assembler conversions as the instructions they stand for: RVL32's five
(47_pseudo.md R231 to R235), V16's nine (49_v16_control_memory.md R285, R286), the branch conversion (R287), the
fields of control transfers (30_encoding.md R122) and the spellings of R124. None has an encoding of its own. -/

namespace Sys2Proof.Machine

/-! ### Immediate fields of control transfers -/

/-- The JAL field for a target: `(T - pc) >> 2`, exact and in range, or none (30_encoding.md R122). -/
def jalField (pc target : Word32) : Option (BitVec 20) :=
  let f := (target - pc).extractLsb' 2 20
  if jalOffset f = target - pc then some f else none

/-- The branch field for a target, likewise (30_encoding.md R122). -/
def branchField (pc target : Word32) : Option (BitVec 12) :=
  let f := (target - pc).extractLsb' 2 12
  if immOffset f = target - pc then some f else none

/-- The JALR field for a byte offset: the offset divided by 4, exact and in range, or none (30_encoding.md R122). -/
def jalrField (offset : Word32) : Option (BitVec 12) :=
  let f := offset.extractLsb' 2 12
  if immOffset f = offset then some f else none

/-- The V16 JAL field for a target: half the distance, exact and in range, or none (30_encoding.md R105). -/
def jalField16 (pc target : Word16) : Option (BitVec 8) :=
  let f := (target - pc).extractLsb' 1 8
  if jalOffset16 f = target - pc then some f else none

/-! ### RVL32 -/

/-- The rounded high part `((v + 0x800) >> 12) & 0xFFFFF` (47_pseudo.md R231). -/
def highPart (v : Word32) : BitVec 20 := (v + 0x00000800#32).extractLsb' 12 20

/-- The low part, `v` minus its high part: -2048 to 2047 (47_pseudo.md R231). -/
def lowPart (v : Word32) : Word32 := v - upperValue (highPart v)

/-- `li rd #imm32` (47_pseudo.md R231). -/
def pseudoLi (rd : Reg32) (imm32 : Word32) : List Instr :=
  [.lui rd (highPart imm32), .addi rd rd ((lowPart imm32).extractLsb' 0 12)]

/-- The one-instruction `li`, for -2048 to 2047 (47_pseudo.md R231). -/
def pseudoLiShort (rd : Reg32) (imm32 : Word32) : Option (List Instr) :=
  let f := imm32.extractLsb' 0 12
  if immValue f = imm32 then some [.addi rd 0 f] else none

/-- `la rd symbol`, the AUIPC at address `a` (47_pseudo.md R232). -/
def pseudoLa (rd : Reg32) (a symbol : Word32) : List Instr :=
  [.auipc rd (highPart (symbol - a)), .addi rd rd ((lowPart (symbol - a)).extractLsb' 0 12)]

/-- `j symbol` at address `a`; none when the distance does not fit (47_pseudo.md R233). -/
def pseudoJ (a symbol : Word32) : Option (List Instr) :=
  (jalField a symbol).map fun f => [.jal 0 f]

/-- `jr rs` (47_pseudo.md R234). -/
def pseudoJr (rs : Reg32) : List Instr := [.jalr 0 rs 0x000#12]

/-- `call symbol`, the AUIPC at address `a`; none when the distance is no multiple of 4 (47_pseudo.md R235). -/
def pseudoCall (a symbol : Word32) : Option (List Instr) :=
  (jalrField (lowPart (symbol - a))).map fun f => [.auipc 6 (highPart (symbol - a)), .jalr 1 6 f]

/-! ### V16 -/

/-- `nop`, the word `0x0005` (49_v16_control_memory.md R285). -/
def pseudoNop16 : List Instr := [.v16Add 0 0 0]

/-- `li rd #imm16`, two instructions (49_v16_control_memory.md R286). R286 says that `rd` must not be x0 and nothing of what
`li` or `la` is then; that all three functions give the same expansion there too, whose terms no word holds, is the model's
choice (DESIGN CHOICE, log 24). -/
def pseudoLi16 (rd : Reg16) (imm16 : Word16) : List Instr :=
  [.v16Li rd (lowByte imm16), .v16Lui rd (highByte imm16)]

/-- The one-instruction `li`, for -128 to 127 (49_v16_control_memory.md R286); for `rd` x0 the same term, the model's choice
(log 24). -/
def pseudoLiShort16 (rd : Reg16) (imm16 : Word16) : Option (List Instr) :=
  if imm8Value (lowByte imm16) = imm16 then some [.v16Li rd (lowByte imm16)] else none

/-- `symbol_offset = (symbol - (A & 0xFF00)) mod 2^16`, `A` the AUIPC's address (49_v16_control_memory.md R286). -/
def symbolOffset16 (a symbol : Word16) : Word16 := symbol - (a &&& 0xFF00#16)

/-- `la rd symbol`, the LI at address `a`, the AUIPC at `a + 2` (49_v16_control_memory.md R286); for `rd` x0 the same terms,
the model's choice (log 24). -/
def pseudoLa16 (rd : Reg16) (a symbol : Word16) : List Instr :=
  let d := symbolOffset16 (a + 2#16) symbol
  [.v16Li rd (lowByte d), .v16Auipc rd (highByte d)]

/-- `mv rd rs1` (49_v16_control_memory.md R285). -/
def pseudoMv16 (rd rs1 : Reg16) : List Instr := [.v16Add rd rs1 0]

/-- `ifgt rd rs1` (49_v16_control_memory.md R285). -/
def pseudoIfGt16 (rd rs1 : Reg16) : List Instr := [.v16IfLt rs1 rd]

/-- `ifgtu rd rs1` (49_v16_control_memory.md R285). -/
def pseudoIfGtu16 (rd rs1 : Reg16) : List Instr := [.v16IfLtu rs1 rd]

/-- `ifle rd rs1` (49_v16_control_memory.md R285). -/
def pseudoIfLe16 (rd rs1 : Reg16) : List Instr := [.v16IfGe rs1 rd]

/-- `ifleu rd rs1` (49_v16_control_memory.md R285). -/
def pseudoIfLeu16 (rd rs1 : Reg16) : List Instr := [.v16IfGeu rs1 rd]

/-- `jr rs` (30_encoding.md R124). -/
def pseudoJr16 (rs : Reg16) : List Instr := [.v16Jalr 0 rs]

/-- `j label` at address `a`; none when the distance does not fit (30_encoding.md R124). -/
def pseudoJ16 (a label : Word16) : Option (List Instr) :=
  (jalField16 a label).map fun f => [.v16Jal 0 f]

/-- `not rd` with one operand (30_encoding.md R124). -/
def pseudoNot16 (rd : Reg16) : List Instr := [.v16Not rd rd]

/-- `ifne rd` with one operand (30_encoding.md R124). -/
def pseudoIfNe16 (rd : Reg16) : List Instr := [.v16IfNe rd 0]

/-- `ash rd rs1 rs2`, an older name of SRA (30_encoding.md R124); for `rs2` x0 a term no word holds, the model's choice
(log 24). -/
def pseudoAsh16 (rd rs1 rs2 : Reg16) : List Instr := [.v16Sra rd rs1 rs2]

/-- The IFxxx of a comparison (49_v16_control_memory.md R273 to R278). -/
def ifInstr16 (c : Cond) (rd rs1 : Reg16) : Instr :=
  match c with
  | .eq => .v16IfEq rd rs1
  | .ne => .v16IfNe rd rs1
  | .lt => .v16IfLt rd rs1
  | .ge => .v16IfGe rd rs1
  | .ltu => .v16IfLtu rd rs1
  | .geu => .v16IfGeu rd rs1

/-- A conditional branch to a label, its IFxxx at address `a` and the guarded JAL at `a + 2`
(49_v16_control_memory.md R287). -/
def pseudoBranch16 (c : Cond) (rd rs1 : Reg16) (a label : Word16) : Option (List Instr) :=
  (jalField16 (a + 2#16) label).map fun f => [ifInstr16 c rd rs1, .v16Jal 0 f]

end Sys2Proof.Machine
end

