-- ==== Sys2Proof/Machine/RegisterUse.lean ====
section
/-! DEFINITION. Which registers each instruction reads and writes (10_state.md R22, R44). Statements about registers are
made with these tables; `exec` does not use them. -/

namespace Sys2Proof.Machine

/-- The RVL32 register an instruction writes (10_state.md R22). -/
def writes32 : Instr → Option Reg32
  | .lui rd _ | .auipc rd _ | .jal rd _ | .jalr rd _ _ | .lb rd _ _ | .lh rd _ _ | .lw rd _ _ | .lbu rd _ _
  | .lhu rd _ _ | .addi rd _ _ | .slti rd _ _ | .sltiu rd _ _ | .xori rd _ _ | .ori rd _ _ | .andi rd _ _
  | .slli rd _ _ | .srli rd _ _ | .srai rd _ _ | .add rd _ _ | .sub rd _ _ | .sll rd _ _ | .slt rd _ _
  | .sltu rd _ _ | .xor rd _ _ | .srl rd _ _ | .sra rd _ _ | .or rd _ _ | .and rd _ _ | .csrrw rd _ _
  | .csrrs rd _ _ | .csrrc rd _ _ | .csrrwi rd _ _ | .csrrsi rd _ _ | .csrrci rd _ _ | .mul rd _ _
  | .mulh rd _ _ | .mulhsu rd _ _ | .mulhu rd _ _ | .div rd _ _ | .divu rd _ _ | .rem rd _ _ | .remu rd _ _ => some rd
  | .beq _ _ _ | .bne _ _ _ | .blt _ _ _ | .bge _ _ _ | .bltu _ _ _ | .bgeu _ _ _ | .sb _ _ _ | .sh _ _ _
  | .sw _ _ _ | .fence _ _ | .fenceI _ _ | .ecall | .ebreak | .wfi | .v16And _ _ _ | .v16Or _ _ _
  | .v16Xor _ _ _ | .v16Not _ _ | .v16Srl _ _ _ | .v16Sra _ _ _ | .v16Swp _ _ | .v16Add _ _ _ | .v16Sub _ _ _
  | .v16Jal _ _ | .v16Li _ _ | .v16Lui _ _ | .v16Auipc _ _ | .v16Lw _ _ _ | .v16Sw _ _ _ | .v16Lb _ _ _
  | .v16Sb _ _ _ | .v16Jalr _ _ | .v16IfEq _ _ | .v16IfNe _ _ | .v16IfLt _ _ | .v16IfGe _ _ | .v16IfLtu _ _
  | .v16IfGeu _ _ | .v16Addi _ _ _ | .v16Free0 _ _ | .v16Free1 _ _ | .v16Free3 _ _ | .v16Free8 _ | .v16Free9 _
  | .v16Free10 _ | .v16Free15 _ _ => none

/-- The RVL32 registers an instruction reads (10_state.md R22). -/
def reads32 : Instr → List Reg32
  | .lui _ _ | .auipc _ _ | .jal _ _ | .fence _ _ | .fenceI _ _ | .ecall | .ebreak | .wfi | .csrrwi _ _ _
  | .csrrsi _ _ _ | .csrrci _ _ _ | .v16And _ _ _ | .v16Or _ _ _ | .v16Xor _ _ _ | .v16Not _ _ | .v16Srl _ _ _
  | .v16Sra _ _ _ | .v16Swp _ _ | .v16Add _ _ _ | .v16Sub _ _ _ | .v16Jal _ _ | .v16Li _ _ | .v16Lui _ _
  | .v16Auipc _ _ | .v16Lw _ _ _ | .v16Sw _ _ _ | .v16Lb _ _ _ | .v16Sb _ _ _ | .v16Jalr _ _ | .v16IfEq _ _
  | .v16IfNe _ _ | .v16IfLt _ _ | .v16IfGe _ _ | .v16IfLtu _ _ | .v16IfGeu _ _ | .v16Addi _ _ _ | .v16Free0 _ _
  | .v16Free1 _ _ | .v16Free3 _ _ | .v16Free8 _ | .v16Free9 _ | .v16Free10 _ | .v16Free15 _ _ => []
  | .jalr _ rs1 _ | .lb _ rs1 _ | .lh _ rs1 _ | .lw _ rs1 _ | .lbu _ rs1 _ | .lhu _ rs1 _ | .addi _ rs1 _
  | .slti _ rs1 _ | .sltiu _ rs1 _ | .xori _ rs1 _ | .ori _ rs1 _ | .andi _ rs1 _ | .slli _ rs1 _
  | .srli _ rs1 _ | .srai _ rs1 _ | .csrrw _ rs1 _ | .csrrs _ rs1 _ | .csrrc _ rs1 _ => [rs1]
  | .beq rd rs1 _ | .bne rd rs1 _ | .blt rd rs1 _ | .bge rd rs1 _ | .bltu rd rs1 _ | .bgeu rd rs1 _ => [rd, rs1]
  | .sb rd rs1 _ | .sh rd rs1 _ | .sw rd rs1 _ => [rs1, rd]
  | .add _ rs1 rs2 | .sub _ rs1 rs2 | .sll _ rs1 rs2 | .slt _ rs1 rs2 | .sltu _ rs1 rs2 | .xor _ rs1 rs2
  | .srl _ rs1 rs2 | .sra _ rs1 rs2 | .or _ rs1 rs2 | .and _ rs1 rs2 | .mul _ rs1 rs2 | .mulh _ rs1 rs2
  | .mulhsu _ rs1 rs2 | .mulhu _ rs1 rs2 | .div _ rs1 rs2 | .divu _ rs1 rs2 | .rem _ rs1 rs2 | .remu _ rs1 rs2 => [rs1, rs2]

/-- The V16 register an instruction writes (10_state.md R44). -/
def writes16 : Instr → Option Reg16
  | .v16And rd _ _ | .v16Or rd _ _ | .v16Xor rd _ _ | .v16Not rd _ | .v16Srl rd _ _ | .v16Sra rd _ _
  | .v16Swp rd _ | .v16Add rd _ _ | .v16Sub rd _ _ | .v16Jal rd _ | .v16Li rd _ | .v16Lui rd _ | .v16Auipc rd _
  | .v16Lw rd _ _ | .v16Lb rd _ _ | .v16Jalr rd _ | .v16Addi rd _ _ => some rd
  | .v16Sw _ _ _ | .v16Sb _ _ _ | .v16IfEq _ _ | .v16IfNe _ _ | .v16IfLt _ _ | .v16IfGe _ _ | .v16IfLtu _ _
  | .v16IfGeu _ _ | .v16Free0 _ _ | .v16Free1 _ _ | .v16Free3 _ _ | .v16Free8 _ | .v16Free9 _ | .v16Free10 _
  | .v16Free15 _ _ | .lui _ _ | .auipc _ _ | .jal _ _ | .jalr _ _ _ | .beq _ _ _ | .bne _ _ _ | .blt _ _ _
  | .bge _ _ _ | .bltu _ _ _ | .bgeu _ _ _ | .lb _ _ _ | .lh _ _ _ | .lw _ _ _ | .lbu _ _ _ | .lhu _ _ _
  | .sb _ _ _ | .sh _ _ _ | .sw _ _ _ | .addi _ _ _ | .slti _ _ _ | .sltiu _ _ _ | .xori _ _ _ | .ori _ _ _
  | .andi _ _ _ | .slli _ _ _ | .srli _ _ _ | .srai _ _ _ | .add _ _ _ | .sub _ _ _ | .sll _ _ _ | .slt _ _ _
  | .sltu _ _ _ | .xor _ _ _ | .srl _ _ _ | .sra _ _ _ | .or _ _ _ | .and _ _ _ | .fence _ _ | .fenceI _ _
  | .ecall | .ebreak | .wfi | .csrrw _ _ _ | .csrrs _ _ _ | .csrrc _ _ _ | .csrrwi _ _ _ | .csrrsi _ _ _
  | .csrrci _ _ _ | .mul _ _ _ | .mulh _ _ _ | .mulhsu _ _ _ | .mulhu _ _ _ | .div _ _ _ | .divu _ _ _
  | .rem _ _ _ | .remu _ _ _ => none

/-- The V16 registers an instruction reads (10_state.md R44). -/
def reads16 : Instr → List Reg16
  | .v16And _ rs1 rs2 | .v16Or _ rs1 rs2 | .v16Xor _ rs1 rs2 | .v16Srl _ rs1 rs2 | .v16Sra _ rs1 rs2
  | .v16Add _ rs1 rs2 | .v16Sub _ rs1 rs2 => [rs1, rs2]
  | .v16Not _ rs1 | .v16Swp _ rs1 | .v16Lw _ rs1 _ | .v16Lb _ rs1 _ | .v16Jalr _ rs1 | .v16Addi _ rs1 _ => [rs1]
  | .v16Jal _ _ | .v16Li _ _ | .v16Free0 _ _ | .v16Free1 _ _ | .v16Free3 _ _ | .v16Free8 _ | .v16Free9 _
  | .v16Free10 _ | .v16Free15 _ _ | .lui _ _ | .auipc _ _ | .jal _ _ | .jalr _ _ _ | .beq _ _ _ | .bne _ _ _
  | .blt _ _ _ | .bge _ _ _ | .bltu _ _ _ | .bgeu _ _ _ | .lb _ _ _ | .lh _ _ _ | .lw _ _ _ | .lbu _ _ _
  | .lhu _ _ _ | .sb _ _ _ | .sh _ _ _ | .sw _ _ _ | .addi _ _ _ | .slti _ _ _ | .sltiu _ _ _ | .xori _ _ _
  | .ori _ _ _ | .andi _ _ _ | .slli _ _ _ | .srli _ _ _ | .srai _ _ _ | .add _ _ _ | .sub _ _ _ | .sll _ _ _
  | .slt _ _ _ | .sltu _ _ _ | .xor _ _ _ | .srl _ _ _ | .sra _ _ _ | .or _ _ _ | .and _ _ _ | .fence _ _
  | .fenceI _ _ | .ecall | .ebreak | .wfi | .csrrw _ _ _ | .csrrs _ _ _ | .csrrc _ _ _ | .csrrwi _ _ _
  | .csrrsi _ _ _ | .csrrci _ _ _ | .mul _ _ _ | .mulh _ _ _ | .mulhsu _ _ _ | .mulhu _ _ _ | .div _ _ _
  | .divu _ _ _ | .rem _ _ _ | .remu _ _ _ => []
  | .v16Lui rd _ | .v16Auipc rd _ => [rd]
  | .v16Sw rd rs1 _ | .v16Sb rd rs1 _ => [rs1, rd]
  | .v16IfEq rd rs1 | .v16IfNe rd rs1 | .v16IfLt rd rs1 | .v16IfGe rd rs1 | .v16IfLtu rd rs1 | .v16IfGeu rd rs1 => [rd, rs1]

end Sys2Proof.Machine
end

