-- ==== Sys2Proof/Safety.lean ====
section
/-! DEFINITION. The terms of the statements: runs and their end, the invariant every step keeps, and the frames that say what
an instruction leaves as it was. -/

namespace Sys2Proof.Machine

/-! ### Runs -/

/-- The state after `k` steps, if every one of them answers a next state. -/
def after : Nat → State → Option State
  | 0, s => some s
  | k + 1, s =>
    match step s with
    | .next t => after k t
    | .fault _ => none
    | .refused _ => none

/-- The terminal fault of the selected machine (60_exceptions.md R301). -/
def State.faultNow (s : State) : Option Fault :=
  match s.isa with
  | .rvl32 => s.rvl32.fault
  | .v16 => s.v16.fault

/-- The pc of the selected machine. -/
def State.pcNow (s : State) : Nat :=
  match s.isa with
  | .rvl32 => s.rvl32.pc.toNat
  | .v16 => s.v16.pc.toNat

/-- `END_OF_RUN` as 95_test_vectors.md takes it: the pc reaches a stated address without a fault
(70_reset_and_hazards.md R337; log 21). -/
def ReachesPc (s : State) (stop : Nat) : Prop :=
  ∃ k t, after k s = some t ∧ t.faultNow = none ∧ t.pcNow = stop

/-- A run without fault (60_exceptions.md R301). -/
def SafeRun (s : State) : Prop := ∀ k t, after k s = some t → t.faultNow = none

/-! ### The invariant -/

/-- What every step keeps of one machine: memory and `stored` in canonical form inside the address space (20_memory.md
R50), a pc that is a multiple of the instruction length (10_state.md R26, R41), the `x0` cell zero (R21, R38), and
`stored` empty under `SMC_POLICY = coherent` (R32 (c)). -/
def Hart.inv {n : Nat} (h : Hart n) : Bool :=
  Memory.wf n h.mem && AddrSet.wf n h.stored && h.pc.toNat % ilen n == 0 && h.regs.toList.head? == some 0#n &&
    (h.platform.smc == .refuse || h.stored == [])

/-- The invariant of both machines; a machine that waits has not faulted (45_misc_mem_system.md R199). -/
def State.inv (s : State) : Bool :=
  s.rvl32.inv && s.v16.inv && (!s.waiting || s.rvl32.fault.isNone)

/-! ### Frames -/

/-- Every byte of memory reads as before. -/
def Hart.SameMemory {n : Nat} (h h' : Hart n) : Prop := ∀ a, h'.mem.read a = h.mem.read a

/-- Every register but the named one reads as before; `x0` is never the one. -/
def Hart.SameRegsBut {n : Nat} (h h' : Hart n) (rd : Option (Fin n)) : Prop :=
  ∀ r : Fin n, rd ≠ some r ∨ r.val = 0 → h'.x r = h.x r

/-- `stored`, the fault, the platform, the free values drawn and the accesses handed to the platform are as before. -/
def Hart.SameHidden {n : Nat} (h h' : Hart n) : Prop :=
  h'.stored = h.stored ∧ h'.fault = h.fault ∧ h'.platform = h.platform ∧ h'.draws = h.draws ∧ h'.io = h.io

/-- Everything outside the RVL32 hart is as before. -/
def State.SameAround32 (s t : State) : Prop :=
  t.isa = s.isa ∧ t.csrs = s.csrs ∧ t.waiting = s.waiting ∧ t.wake = s.wake ∧ t.v16 = s.v16 ∧ t.imm3Signed = s.imm3Signed

/-- Everything outside the V16 hart is as before. -/
def State.SameAround16 (s t : State) : Prop :=
  t.isa = s.isa ∧ t.rvl32 = s.rvl32 ∧ t.csrs = s.csrs ∧ t.waiting = s.waiting ∧ t.wake = s.wake ∧ t.imm3Signed = s.imm3Signed

/-- An RVL32 instruction that only writes `v` to `x[rd]` (nothing where `rd` is x0) and goes to `pc`. -/
def Wrote32 (s t : State) (rd : Reg32) (v pc : Word32) : Prop :=
  (rd.val ≠ 0 → t.rvl32.x rd = v) ∧ t.rvl32.pc = pc ∧ s.rvl32.SameRegsBut t.rvl32 (some rd) ∧
    s.rvl32.SameMemory t.rvl32 ∧ s.rvl32.SameHidden t.rvl32 ∧ s.SameAround32 t

/-- An RVL32 instruction that only goes to `pc`. -/
def Moved32 (s t : State) (pc : Word32) : Prop :=
  t.rvl32.pc = pc ∧ s.rvl32.SameRegsBut t.rvl32 none ∧ s.rvl32.SameMemory t.rvl32 ∧ s.rvl32.SameHidden t.rvl32 ∧
    s.SameAround32 t

/-- A V16 instruction that only writes `v` to `x[rd]` (nothing where `rd` is x0) and goes to `pc`. -/
def Wrote16 (s t : State) (rd : Reg16) (v pc : Word16) : Prop :=
  (rd.val ≠ 0 → t.v16.x rd = v) ∧ t.v16.pc = pc ∧ s.v16.SameRegsBut t.v16 (some rd) ∧
    s.v16.SameMemory t.v16 ∧ s.v16.SameHidden t.v16 ∧ s.SameAround16 t

/-- A V16 instruction that only goes to `pc`. -/
def Moved16 (s t : State) (pc : Word16) : Prop :=
  t.v16.pc = pc ∧ s.v16.SameRegsBut t.v16 none ∧ s.v16.SameMemory t.v16 ∧ s.v16.SameHidden t.v16 ∧ s.SameAround16 t

/-- RVL32 enters the terminal fault and nothing else changes (60_exceptions.md R301). -/
def Faulted32 (s t : State) (f : Fault) : Prop := t = { s with rvl32 := { s.rvl32 with fault := some f } }

/-- V16 enters the terminal fault and nothing else changes (60_exceptions.md R301). -/
def Faulted16 (s t : State) (f : Fault) : Prop := t = { s with v16 := { s.v16 with fault := some f } }

/-- The bytes an access of `width` bytes at `addr` touches, `addr + k` modulo `2^XLEN` (20_memory.md R52). -/
def touched {n : Nat} (addr : BitVec n) (width : Nat) (a : Nat) : Prop :=
  ∃ k, k < width ∧ a = (addr + BitVec.ofNat n k).toNat

/-- No byte of an access is a device's (20_memory.md R59). -/
def Hart.OrdinaryAt {n : Nat} (h : Hart n) (addr : BitVec n) (width : Nat) : Prop :=
  ∀ k, k < width → h.platform.isDevice (addr + BitVec.ofNat n k).toNat = false

/-- An access that 20_memory.md R54 and R55 let through at its own width: aligned and valid. -/
def Hart.AccessOk {n : Nat} (h : Hart n) (kind : AccessKind) (addr : BitVec n) (width : Nat) : Prop :=
  addr.toNat % width = 0 ∧ h.platform.valid kind addr.toNat width = true

/-- The byte of ordinary memory at `addr + k` (20_memory.md R52). -/
def Hart.byteAt {n : Nat} (h : Hart n) (addr : BitVec n) (k : Nat) : Byte := h.mem.read (addr + BitVec.ofNat n k).toNat

/-- Little-endian bytes of ordinary memory as a number (20_memory.md R52). -/
def Hart.numberAt {n : Nat} (h : Hart n) (addr : BitVec n) : Nat → Nat
  | 0 => 0
  | k + 1 => h.numberAt addr k + 256 ^ k * (h.byteAt addr k).toNat

/-- A store of the low `width` bytes of `v` at `addr` and nothing else in memory: each byte stored is `v[8k+7 : 8k]`,
every other byte of memory reads as before (20_memory.md R52). -/
def Hart.StoredBytes {n : Nat} (h h' : Hart n) (v addr : BitVec n) (width : Nat) : Prop :=
  (∀ k, k < width → h'.byteAt addr k = v.extractLsb' (8 * k) 8) ∧
    ∀ a, ¬ touched addr width a → h'.mem.read a = h.mem.read a

/-- The byte addresses of a store join `stored` under `SMC_POLICY = refuse`, and only they (20_memory.md R62). -/
def Hart.NotedStored {n : Nat} (h h' : Hart n) (addr : BitVec n) (width : Nat) : Prop :=
  ∀ a, a ∈ h'.stored ↔ a ∈ h.stored ∨ (h.platform.smc = .refuse ∧ touched addr width a)

/-- An RVL32 store that completes: its bytes, the pc, and nothing else. -/
def Stored32 (s t : State) (v addr : Word32) (width : Nat) : Prop :=
  s.rvl32.StoredBytes t.rvl32 v addr width ∧ s.rvl32.NotedStored t.rvl32 addr width ∧
    t.rvl32.pc = s.rvl32.pc + 4#32 ∧ s.rvl32.SameRegsBut t.rvl32 none ∧ t.rvl32.fault = s.rvl32.fault ∧
    t.rvl32.platform = s.rvl32.platform ∧ t.rvl32.draws = s.rvl32.draws ∧ t.rvl32.io = s.rvl32.io ∧ s.SameAround32 t

/-- A V16 store that completes: its bytes, the pc, and nothing else. -/
def Stored16 (s t : State) (v addr : Word16) (width : Nat) : Prop :=
  s.v16.StoredBytes t.v16 v addr width ∧ s.v16.NotedStored t.v16 addr width ∧
    t.v16.pc = s.v16.pc + 2#16 ∧ s.v16.SameRegsBut t.v16 none ∧ t.v16.fault = s.v16.fault ∧
    t.v16.platform = s.v16.platform ∧ t.v16.draws = s.v16.draws ∧ t.v16.io = s.v16.io ∧ s.SameAround16 t

/-- A misaligned access that `MISALIGNED_POLICY = bytewise` lets through: every byte valid by itself (20_memory.md R54,
R55). -/
def Hart.SplitOk {n : Nat} (h : Hart n) (kind : AccessKind) (addr : BitVec n) (width : Nat) : Prop :=
  h.platform.misaligned = .bytewise ∧ addr.toNat % width ≠ 0 ∧
    ∀ k, k < width → h.platform.valid kind (addr + BitVec.ofNat n k).toNat 1 = true

/-- Whether the byte at `addr + k` is a device's (20_memory.md R59). -/
def Hart.deviceAt {n : Nat} (h : Hart n) (addr : BitVec n) (k : Nat) : Bool :=
  h.platform.isDevice (addr + BitVec.ofNat n k).toNat

/-- How many of the first `k` bytes at `addr` are a device's: a read draws so many free values. -/
def Hart.deviceBytes {n : Nat} (h : Hart n) (addr : BitVec n) (k : Nat) : Nat :=
  (List.range k).countP (h.deviceAt addr)

/-- The byte at `addr + k` as a read that starts at `addr` sees it: a device's is a free value, a fresh one for each
(20_memory.md R59; log 8). -/
def Hart.byteSeen {n : Nat} (h : Hart n) (addr : BitVec n) (k : Nat) : Byte :=
  if h.deviceAt addr k then Config.unspecified n (h.draws + h.deviceBytes addr k) 8 else h.byteAt addr k

/-- The low `width` bytes of a value, the lowest first. -/
def valueBytes {n : Nat} (v : BitVec n) (width : Nat) : List Byte :=
  (List.range width).map fun k => v.extractLsb' (8 * k) 8

/-- What a read performed as single bytes hands to the platform, newest first: a read of each device byte (20_memory.md
R54; log 7). -/
def Hart.splitReads {n : Nat} (h : Hart n) (addr : BitVec n) (width : Nat) : List IoEvent :=
  ((List.range width).filter (h.deviceAt addr)).reverse.map fun k => .read (addr + BitVec.ofNat n k).toNat 1

/-- What a write performed as single bytes hands to the platform, newest first. -/
def Hart.splitWrites {n : Nat} (h : Hart n) (v addr : BitVec n) (width : Nat) : List IoEvent :=
  ((List.range width).filter (h.deviceAt addr)).reverse.map fun k =>
    .write (addr + BitVec.ofNat n k).toNat [v.extractLsb' (8 * k) 8]

/-- A load that completes on one hart, whatever it reads: `v` in `x[rd]`, the pc, a free value drawn for each device byte,
`events` handed to the platform, and nothing else. -/
def Hart.CompletedLoad {n : Nat} (h h' : Hart n) (rd : Fin n) (v addr : BitVec n) (width : Nat) (events : List IoEvent) :
    Prop :=
  (rd.val ≠ 0 → h'.x rd = v) ∧ h'.pc = h.pc + BitVec.ofNat n (ilen n) ∧
    h'.draws = h.draws + h.deviceBytes addr width ∧ h'.io = events ++ h.io ∧ h.SameRegsBut h' (some rd) ∧
    h.SameMemory h' ∧ h'.stored = h.stored ∧ h'.fault = h.fault ∧ h'.platform = h.platform

/-- A store that completes on one hart, whatever it writes to: each byte of ordinary memory stored, no byte of memory at a
device's address or outside the access changed, the pc, `stored` by R62, `events` handed to the platform, and nothing
else. -/
def Hart.CompletedStore {n : Nat} (h h' : Hart n) (v addr : BitVec n) (width : Nat) (events : List IoEvent) : Prop :=
  (∀ k, k < width → h'.byteAt addr k = if h.deviceAt addr k then h.byteAt addr k else v.extractLsb' (8 * k) 8) ∧
    (∀ a, ¬ touched addr width a → h'.mem.read a = h.mem.read a) ∧ h.NotedStored h' addr width ∧
    h'.pc = h.pc + BitVec.ofNat n (ilen n) ∧ h'.draws = h.draws ∧ h'.io = events ++ h.io ∧ h.SameRegsBut h' none ∧
    h'.fault = h.fault ∧ h'.platform = h.platform

/-- Where an RVL32 instruction stores and how many bytes (42_loads_stores.md R157 to R160). -/
def storeSpan32 (h : Hart 32) : Instr → Option (Word32 × Nat)
  | .sb _ rs1 imm12 => some (address32 h rs1 imm12, 1)
  | .sh _ rs1 imm12 => some (address32 h rs1 imm12, 2)
  | .sw _ rs1 imm12 => some (address32 h rs1 imm12, 4)
  | _ => none

/-- Where a V16 instruction stores and how many bytes (49_v16_control_memory.md R281, R283). -/
def storeSpan16 (h : Hart 16) : Instr → Option (Word16 × Nat)
  | .v16Sb _ rs1 imm4 => some (address16 h rs1 imm4, 1)
  | .v16Sw _ rs1 imm4 => some (address16 h rs1 imm4, 2)
  | _ => none

/-- Instructions with a `pc <-` of their own: the jumps, the branches and IFxxx (10_state.md R25, R41). -/
def setsPc : Instr → Bool
  | .jal _ _ | .jalr _ _ _ | .beq _ _ _ | .bne _ _ _ | .blt _ _ _ | .bge _ _ _ | .bltu _ _ _ | .bgeu _ _ _
  | .v16Jal _ _ | .v16Jalr _ _ | .v16IfEq _ _ | .v16IfNe _ _ | .v16IfLt _ _ | .v16IfGe _ _ | .v16IfLtu _ _
  | .v16IfGeu _ _ => true
  | _ => false

/-- Instructions executed one after the other, each at a next state: what a pseudo-instruction stands for. -/
def execAll : List Instr → State → Option State
  | [], s => some s
  | i :: is, s =>
    match exec i s with
    | .next t => execAll is t
    | .fault _ => none
    | .refused _ => none

/-! ### Reserved words, from the tables -/

/-- The 21 major opcodes that 30_encoding.md R86 marks reserved, by `w[6:2]`. -/
def reservedMajors : List (BitVec 5) :=
  [1, 2, 6, 7, 9, 10, 11, 14, 15, 16, 17, 18, 19, 20, 21, 22, 23, 26, 29, 30, 31]

/-- The rows of the table of reserved RVL32 encodings (30_encoding.md R95). -/
def reservedWord (w : Word32) : Bool :=
  let opcode := w.extractLsb' 0 7
  let func3 := w.extractLsb' 12 3
  let func7 := w.extractLsb' 25 7
  w.extractLsb' 0 2 != 0b11#2
    || reservedMajors.contains (w.extractLsb' 2 5)
    || (opcode == 0b1100111#7 && func3 != 0b000#3)
    || (opcode == 0b1100011#7 && (func3 == 0b010#3 || func3 == 0b011#3))
    || (opcode == 0b0000011#7 && (func3 == 0b011#3 || func3 == 0b110#3 || func3 == 0b111#3))
    || (opcode == 0b0100011#7 && 3 ≤ func3.toNat)
    || (opcode == 0b0010011#7 && func3 == 0b001#3 && func7 != 0b0000000#7)
    || (opcode == 0b0010011#7 && func3 == 0b101#3 && func7 != 0b0000000#7 && func7 != 0b0100000#7)
    || (opcode == 0b0110011#7 && func7 != 0b0000000#7 && func7 != 0b0100000#7 && func7 != 0b0000001#7)
    || (opcode == 0b0110011#7 && func7 == 0b0100000#7 && func3 != 0b000#3 && func3 != 0b101#3)
    || (opcode == 0b0001111#7 && 2 ≤ func3.toNat)
    || (opcode == 0b1110011#7 && func3 == 0b000#3 && w != 0x10500073#32 && w != 0x00000073#32 && w != 0x00100073#32)
    || (opcode == 0b1110011#7 && func3 == 0b100#3)
    || (opcode == 0b1110011#7 && func3 != 0b000#3 && func3 != 0b100#3 && w.extractLsb' 26 6 != 0b000000#6)

/-- The match and mask pairs of the V16 FREE patterns (30_encoding.md R110). -/
def freePatterns : List (Word16 × Word16) :=
  [(0x0000#16, 0x0F0F#16), (0x0001#16, 0x0F0F#16), (0x0003#16, 0x0F0F#16), (0x0008#16, 0x00FF#16),
    (0x0009#16, 0x00FF#16), (0x000A#16, 0x00FF#16), (0x070F#16, 0x0F0F#16)]

/-- Whether a V16 word is FREE (30_encoding.md R110). -/
def freeWord (w : Word16) : Bool := freePatterns.any fun p => w &&& p.2 == p.1

/-- Whether an instruction is one of the FREE rows. -/
def isFree : Instr → Bool
  | .v16Free0 _ _ | .v16Free1 _ _ | .v16Free3 _ _ | .v16Free8 _ | .v16Free9 _ | .v16Free10 _ | .v16Free15 _ _ => true
  | _ => false

end Sys2Proof.Machine
end

