-- ==== Sys2Proof/Certificates/Slice0/Obligations.lean ====
section
/-! DEFINITION. The statements about the two machines, made from the numbered rules of spec/. -/

section Statements

open Sys2Proof Sys2Proof.Machine

/-! ### Encoding -/

/-- Decoding the encoding of a well-formed instruction gives it back (30_encoding.md R81 to R88, R90, R101 to R106). -/
def Obligations.DecodeOfEncode : Prop := ∀ i : Instr, i.WellFormed → decode (encode i) = .ok i

/-- A word that decodes is the encoding of the well-formed instruction it decodes to, of the machine whose word it is: no
bit of a defined word is dropped (30_encoding.md R90, R106). -/
def Obligations.EncodeOfDecode : Prop :=
  ∀ (w : CodeWord) (i : Instr), decode w = .ok i → i.WellFormed ∧ encode i = w ∧ i.isa = w.isa

/-- The reserved RVL32 words of 30_encoding.md R95 are exactly those the decoder rejects, and a step that meets one raises
`IllegalInstruction` with the word and does nothing else. -/
def Obligations.ReservedWordsAreRejected : Prop :=
  (∀ w : Word32, reservedWord w = true ↔ ∃ r, decode (.rvl32 w) = .error r) ∧
  ∀ (s : State) (w : Word32), s.isa = .rvl32 → s.rvl32.fault = none → s.waiting = false → reservedWord w = true →
    s.rvl32.fetch = .ok (w, s.rvl32) →
      ∃ t, step s = .next t ∧ Faulted32 s t (.illegalInstruction w.toNat)

/-- The FREE words of V16 are exactly the seven patterns of 30_encoding.md R110; every other word decodes to a defined
instruction; a step that meets a FREE word raises `IllegalInstruction` with the word and does nothing else. -/
def Obligations.FreeWordsExactly : Prop :=
  (∀ w : Word16, ∃ i, decode (.v16 w) = .ok i ∧ (isFree i = true ↔ freeWord w = true)) ∧
  ∀ (s : State) (w : Word16), s.isa = .v16 → s.v16.fault = none → freeWord w = true →
    s.v16.fetch = .ok (w, s.v16) →
      ∃ t, step s = .next t ∧ Faulted16 s t (.illegalInstruction w.toNat)

/-- Words written out in spec/ decode to the instructions they stand for there. -/
def Obligations.DecodeWrittenWords : Prop :=
  decode (.rvl32 0x123452B7#32) = .ok (.lui 5 0x12345#20) ∧
  decode (.rvl32 0x000040EF#32) = .ok (.jal 1 4#20) ∧
  decode (.rvl32 0x003302E3#32) = .ok (.beq 5 6 3#12) ∧
  decode (.rvl32 0xFFF30293#32) = .ok (.addi 5 6 0xFFF#12) ∧
  decode (.rvl32 0x00242383#32) = .ok (.lw 7 8 2#12) ∧
  decode (.rvl32 0x007302B3#32) = .ok (.add 5 6 7) ∧
  decode (.rvl32 0x10500073#32) = .ok .wfi ∧
  decode (.rvl32 0x003312F3#32) = .ok (.csrrw 5 6 3#6) ∧
  decode (.rvl32 0x027342B3#32) = .ok (.div 5 6 7) ∧
  decode (.v16 0x3450#16) = .ok (.v16And 5 3 4) ∧
  decode (.v16 0x3052#16) = .ok (.v16Not 5 3) ∧
  decode (.v16 0x0A38#16) = .ok (.v16Li 3 0x0A#8) ∧
  decode (.v16 0x413F#16) = .ok (.v16IfEq 3 4) ∧
  decode (.v16 0x823B#16) = .ok (.v16Lw 3 8 2#4) ∧
  decode (.v16 0x0000#16) = .ok (.v16Free0 0 0)

/-- Decoding from bytes takes the instruction's bytes in little-endian order and leaves the rest; fewer bytes are no
instruction (20_memory.md R52, R56). -/
def Obligations.InstructionBytes : Prop :=
  (∀ (w : Word32) (rest : List Byte), decodeBytes .rvl32 (leBytes w.toNat 4 ++ rest) =
    (decode (.rvl32 w)).map fun i => (i, rest)) ∧
  (∀ (w : Word16) (rest : List Byte), decodeBytes .v16 (leBytes w.toNat 2 ++ rest) =
    (decode (.v16 w)).map fun i => (i, rest)) ∧
  (∀ bs : List Byte, bs.length < 4 → decodeBytes .rvl32 bs = .error .truncated) ∧
  ∀ bs : List Byte, bs.length < 2 → decodeBytes .v16 bs = .error .truncated

/-! ### Steps -/

/-- When the four bytes at the pc are ordinary memory that may be fetched and are the little-endian bytes of the word of a
well-formed instruction, a step of RVL32 is that instruction's `exec` at that same state. -/
def Obligations.StepRunsDecodedInstruction32 : Prop :=
  ∀ (s : State) (i : Instr) (w : Word32), s.isa = .rvl32 → s.rvl32.fault = none → s.waiting = false →
    s.rvl32.checkFetch = none → s.rvl32.OrdinaryAt s.rvl32.pc 4 →
    (∀ k, k < 4 → s.rvl32.byteAt s.rvl32.pc k = w.extractLsb' (8 * k) 8) →
    i.WellFormed → decode (.rvl32 w) = .ok i → step s = exec i s

/-- When the two bytes at the pc are ordinary memory that may be fetched and are the little-endian bytes of the word of a
well-formed instruction, a step of V16 is that instruction's `exec` at that same state. -/
def Obligations.StepRunsDecodedInstruction16 : Prop :=
  ∀ (s : State) (i : Instr) (w : Word16), s.isa = .v16 → s.v16.fault = none →
    s.v16.checkFetch = none → s.v16.OrdinaryAt s.v16.pc 2 →
    (∀ k, k < 2 → s.v16.byteAt s.v16.pc k = w.extractLsb' (8 * k) 8) →
    i.WellFormed → decode (.v16 w) = .ok i → step s = exec i s

/-- The faults of a fetch and their order: alignment, validity, a byte stored to; each is entered with nothing else
changed (60_exceptions.md R306 steps 1 to 3, 20_memory.md R56, R62). -/
def Obligations.FetchFaultsInOrder : Prop :=
  (∀ s : State, s.isa = .rvl32 → s.rvl32.fault = none → s.waiting = false →
    (s.rvl32.pc.toNat % 4 ≠ 0 → ∃ t, step s = .next t ∧ Faulted32 s t (.misalignedFetch s.rvl32.pc.toNat)) ∧
    (s.rvl32.pc.toNat % 4 = 0 → s.rvl32.platform.valid .fetch s.rvl32.pc.toNat 4 = false →
      ∃ t, step s = .next t ∧ Faulted32 s t (.accessFault s.rvl32.pc.toNat)) ∧
    (s.rvl32.pc.toNat % 4 = 0 → s.rvl32.platform.valid .fetch s.rvl32.pc.toNat 4 = true →
      s.rvl32.platform.smc = .refuse → (∃ a ∈ s.rvl32.stored, touched s.rvl32.pc 4 a) →
      ∃ t, step s = .next t ∧ Faulted32 s t (.fetchAfterStore s.rvl32.pc.toNat))) ∧
  ∀ s : State, s.isa = .v16 → s.v16.fault = none →
    (s.v16.pc.toNat % 2 ≠ 0 → ∃ t, step s = .next t ∧ Faulted16 s t (.misalignedFetch s.v16.pc.toNat)) ∧
    (s.v16.pc.toNat % 2 = 0 → s.v16.platform.valid .fetch s.v16.pc.toNat 2 = false →
      ∃ t, step s = .next t ∧ Faulted16 s t (.accessFault s.v16.pc.toNat)) ∧
    (s.v16.pc.toNat % 2 = 0 → s.v16.platform.valid .fetch s.v16.pc.toNat 2 = true →
      s.v16.platform.smc = .refuse → (∃ a ∈ s.v16.stored, touched s.v16.pc 2 a) →
      ∃ t, step s = .next t ∧ Faulted16 s t (.fetchAfterStore s.v16.pc.toNat))

/-- Every step answers a next state: an instruction that cannot complete enters the spec's terminal fault, and nothing
is refused. That the terminal fault is a next state is the model's reading (log 2). -/
def Obligations.EveryStepAnswersNext : Prop := ∀ s : State, ∃ t, step s = .next t

/-- The terminal fault of 60_exceptions.md R301: a machine in it is stuck, and the step that enters it changes no register,
no memory byte, no CSR, not the pc and no `stored` address. -/
def Obligations.TerminalFault : Prop :=
  (∀ s : State, s.faultNow ≠ none → step s = .next s) ∧
  ∀ s t : State, step s = .next t → s.faultNow = none → t.faultNow ≠ none →
    t.rvl32.regs = s.rvl32.regs ∧ t.rvl32.pc = s.rvl32.pc ∧ t.rvl32.mem = s.rvl32.mem ∧
    t.rvl32.stored = s.rvl32.stored ∧ t.csrs = s.csrs ∧ t.waiting = s.waiting ∧
    t.v16.regs = s.v16.regs ∧ t.v16.pc = s.v16.pc ∧ t.v16.mem = s.v16.mem ∧ t.v16.stored = s.v16.stored

/-- WFI and its wait (45_misc_mem_system.md R199): WFI is one word, and any other word with its opcode, func3 and func7 is
reserved; WFI sets `waiting` and goes on to `pc + 4`, nothing else; a step taken
while waiting with `wake` false changes nothing but the input consumed, one with `wake` true ends the wait and does
nothing else. That `wake` is a list of coming values, consumed, whose end reads as false, is the model's choice (log 11). -/
def Obligations.WaitForInterrupt : Prop :=
  (∀ w : Word32, (decode (.rvl32 w) = .ok .wfi ↔ w = 0x10500073#32) ∧
    (w.extractLsb' 0 7 = 0b1110011#7 → w.extractLsb' 12 3 = 0b000#3 → w.extractLsb' 25 7 = 0b0001000#7 →
      w ≠ 0x10500073#32 → ∃ r, decode (.rvl32 w) = .error r)) ∧
  (∀ s : State, exec .wfi s = .next { s with
    waiting := true, rvl32 := { s.rvl32 with pc := s.rvl32.pc + 4#32 } }) ∧
  ∀ s : State, s.isa = .rvl32 → s.rvl32.fault = none → s.waiting = true →
    (s.wake = [] → step s = .next s) ∧
    (∀ rest, s.wake = false :: rest → step s = .next { s with wake := rest }) ∧
    ∀ rest, s.wake = true :: rest → step s = .next { s with wake := rest, waiting := false }

/-! ### Start state and invariants -/

/-- The start state for any parameters (10_state.md R34, R45, R46): on both machines x0 is zero, every other register the
value given for it, the pc `RESET_PC`, no fault, `stored` empty, memory the image (each byte that of the last cell of the
image at its address, and canonical), the memory map, devices and policies those given; `waiting` false, the CSRs,
`wake`, `V16_IMM3_SIGNED` and the selected machine those given. `V16_LOW_IO` makes the byte addresses 0 to 15 of V16
devices besides those given (R42; log 10). That the values the spec leaves unspecified are parameters is the model's
choice (log 3), and that an image's last cell counts is too (log 20). -/
def Obligations.StartState : Prop :=
  ∀ p : Params,
    let s := State.start p
    (s.rvl32.x 0 = 0#32 ∧ (∀ r : Reg32, r ≠ 0 → s.rvl32.x r = p.rvl32.regs[r]) ∧ s.rvl32.pc = p.rvl32.resetPc ∧
      s.waiting = false ∧ s.rvl32.fault = none ∧ s.rvl32.stored = [] ∧ s.csrs = p.csrs ∧
      Memory.wf 32 s.rvl32.mem = true ∧
      ∀ pre a b post, p.rvl32.image = pre ++ (a, b) :: post → a < 2 ^ 32 → (∀ c ∈ post, c.1 % 2 ^ 32 ≠ a) →
        s.rvl32.mem.read a = b) ∧
    (s.v16.x 0 = 0#16 ∧ (∀ r : Reg16, r ≠ 0 → s.v16.x r = p.v16.regs[r]) ∧ s.v16.pc = p.v16.resetPc ∧
      s.v16.fault = none ∧ s.v16.stored = [] ∧ Memory.wf 16 s.v16.mem = true ∧
      ∀ pre a b post, p.v16.image = pre ++ (a, b) :: post → a < 2 ^ 16 → (∀ c ∈ post, c.1 % 2 ^ 16 ≠ a) →
        s.v16.mem.read a = b) ∧
    s.isa = p.isa ∧ s.wake = p.wake ∧ s.imm3Signed = p.imm3Signed ∧ s.rvl32.platform = p.rvl32.platform ∧
    s.v16.platform.windows = p.v16.platform.windows ∧ s.v16.platform.misaligned = p.v16.platform.misaligned ∧
    s.v16.platform.smc = p.v16.platform.smc ∧
    ∀ a, s.v16.platform.isDevice a = true ↔ p.v16.platform.isDevice a = true ∨ (p.lowIo = true ∧ a ≤ 15)

/-- The invariant holds at `State.reset`. -/
def Obligations.ResetMeetsInvariant : Prop := State.reset.inv = true

/-- Every step keeps the invariant: memory and `stored` canonical, the pc a multiple of the instruction length, the x0
cell zero, `stored` empty under `coherent`, and no fault while waiting (10_state.md R21, R26, R32, R38, R41). -/
def Obligations.StepKeepsInvariant : Prop :=
  ∀ s t : State, s.inv = true → step s = .next t → t.inv = true

/-- A start state meets the invariant whenever both reset pcs are aligned (70_reset_and_hazards.md R331). -/
def Obligations.StartMeetsInvariant : Prop :=
  ∀ p : Params, p.rvl32.resetPc.toNat % 4 = 0 → p.v16.resetPc.toNat % 2 = 0 → (State.start p).inv = true

/-- The two machines are separate (00_scope.md R1): a step of one leaves every piece of the other as it is, and what it
does depends on its own pieces alone. -/
def Obligations.MachinesAreSeparate : Prop :=
  (∀ s t : State, s.isa = .rvl32 → step s = .next t → t.isa = s.isa ∧ t.v16 = s.v16 ∧ t.imm3Signed = s.imm3Signed) ∧
  (∀ s t : State, s.isa = .v16 → step s = .next t →
    t.isa = s.isa ∧ t.rvl32 = s.rvl32 ∧ t.csrs = s.csrs ∧ t.waiting = s.waiting ∧ t.wake = s.wake) ∧
  (∀ s s' t t' : State, s.isa = .rvl32 → s'.isa = .rvl32 → s'.rvl32 = s.rvl32 → s'.csrs = s.csrs →
    s'.waiting = s.waiting → s'.wake = s.wake → step s = .next t → step s' = .next t' →
    t'.rvl32 = t.rvl32 ∧ t'.csrs = t.csrs ∧ t'.waiting = t.waiting ∧ t'.wake = t.wake) ∧
  ∀ s s' t t' : State, s.isa = .v16 → s'.isa = .v16 → s'.v16 = s.v16 → s'.imm3Signed = s.imm3Signed →
    step s = .next t → step s' = .next t' → t'.v16 = t.v16

/-- No step changes a parameter (10_state.md R46): the memory maps, the policies, `V16_IMM3_SIGNED`, and for every CSR
whether it exists, of what kind it is and its functions (its cell but for the value held stays). -/
def Obligations.ParametersNeverChange : Prop :=
  ∀ s t : State, step s = .next t →
    t.rvl32.platform = s.rvl32.platform ∧ t.v16.platform = s.v16.platform ∧ t.imm3Signed = s.imm3Signed ∧
    ∀ i : BitVec 6, CsrCell.hold 0#32 (t.csr i) = CsrCell.hold 0#32 (s.csr i)

/-- An instruction changes no register but the one the tables of 10_state.md R22 and R44 say it writes, and never x0, on
either machine. -/
def Obligations.RegistersWritten : Prop :=
  ∀ (i : Instr) (s t : State), exec i s = .next t →
    s.rvl32.SameRegsBut t.rvl32 (writes32 i) ∧ s.v16.SameRegsBut t.v16 (writes16 i)

/-- An instruction depends on no register but those the tables of 10_state.md R22 and R44 say it reads: two states that
differ only in registers the instruction does not read go to states that differ only there, and the register written
gets the same value in both. -/
def Obligations.RegistersRead : Prop :=
  ∀ (i : Instr) (s t t' : State) (regs32 : Vector Word32 32) (regs16 : Vector Word16 16),
    let s' := { s with rvl32 := { s.rvl32 with regs := regs32 }, v16 := { s.v16 with regs := regs16 } }
    (∀ r ∈ reads32 i, s'.rvl32.x r = s.rvl32.x r) → (∀ r ∈ reads16 i, s'.v16.x r = s.v16.x r) →
    exec i s = .next t → exec i s' = .next t' →
    t' = { t with rvl32 := { t.rvl32 with regs := t'.rvl32.regs }, v16 := { t.v16 with regs := t'.v16.regs } } ∧
      (s.rvl32.fault = none → t.rvl32.fault = none → ∀ r, writes32 i = some r → t'.rvl32.x r = t.rvl32.x r) ∧
      (s.v16.fault = none → t.v16.fault = none → ∀ r, writes16 i = some r → t'.v16.x r = t.v16.x r)

/-- An instruction with no `pc <-` of its own that does not fault goes to the next instruction, modulo `2^XLEN`
(10_state.md R25, R41; WFI among them). -/
def Obligations.SequentialPc : Prop :=
  ∀ (i : Instr) (s t : State), setsPc i = false → exec i s = .next t →
    (i.isa = .rvl32 → s.rvl32.fault = none → t.rvl32.fault = none → t.rvl32.pc = s.rvl32.pc + 4#32) ∧
    (i.isa = .v16 → s.v16.fault = none → t.v16.fault = none → t.v16.pc = s.v16.pc + 2#16)

/-- Memory changes only where a store writes: outside the bytes of the instruction's store span every byte reads as
before, and an instruction that is no store changes no byte (20_memory.md R51, R52, R63). -/
def Obligations.MemoryChangesOnlyAtStores : Prop :=
  ∀ (i : Instr) (s t : State), exec i s = .next t → Memory.wf 32 s.rvl32.mem = true → Memory.wf 16 s.v16.mem = true →
    (∀ a, (∀ addr width, storeSpan32 s.rvl32 i = some (addr, width) → ¬ touched addr width a) →
      t.rvl32.mem.read a = s.rvl32.mem.read a) ∧
    ∀ a, (∀ addr width, storeSpan16 s.v16 i = some (addr, width) → ¬ touched addr width a) →
      t.v16.mem.read a = s.v16.mem.read a

/-- The policies and the map rule faults out, and V16 has neither unimplemented rows nor CSRs (60_exceptions.md R302,
R305): under `bytewise` no step raises `MisalignedAccess`, under `coherent` none raises `FetchAfterStore`, where every
access is valid none raises `AccessFault`. -/
def Obligations.FaultsRuledOut : Prop :=
  (∀ s t : State, s.isa = .rvl32 → s.rvl32.fault = none → step s = .next t →
    (s.rvl32.platform.misaligned = .bytewise → ∀ a, t.rvl32.fault ≠ some (.misalignedAccess a)) ∧
    (s.rvl32.platform.smc = .coherent → ∀ a, t.rvl32.fault ≠ some (.fetchAfterStore a)) ∧
    ((∀ a, a < 2 ^ 32 → s.rvl32.platform.valid .fetch a 4 = true ∧ ∀ width ∈ [1, 2, 4],
        s.rvl32.platform.valid .load a width = true ∧ s.rvl32.platform.valid .store a width = true) →
      ∀ a, t.rvl32.fault ≠ some (.accessFault a))) ∧
  ∀ s t : State, s.isa = .v16 → s.v16.fault = none → step s = .next t →
    (s.v16.platform.misaligned = .bytewise → ∀ a, t.v16.fault ≠ some (.misalignedAccess a)) ∧
    (s.v16.platform.smc = .coherent → ∀ a, t.v16.fault ≠ some (.fetchAfterStore a)) ∧
    ((∀ a, a < 2 ^ 16 → s.v16.platform.valid .fetch a 2 = true ∧ ∀ width ∈ [1, 2],
        s.v16.platform.valid .load a width = true ∧ s.v16.platform.valid .store a width = true) →
      ∀ a, t.v16.fault ≠ some (.accessFault a)) ∧
    (∀ w, t.v16.fault ≠ some (.unimplemented w)) ∧ ∀ i, t.v16.fault ≠ some (.undefinedCsr i)

/-! ### Memory -/

/-- Effective addresses are sums modulo `2^XLEN`: a signed displacement of 12 bits in RVL32, an unscaled one of 0 to 15 in
V16 (20_memory.md R57). -/
def Obligations.EffectiveAddresses : Prop :=
  (∀ (h : Hart 32) (rs1 : Reg32) (imm12 : BitVec 12),
    ((address32 h rs1 imm12).toNat : Int) = ((h.x rs1).toNat + imm12.toInt) % 2 ^ 32) ∧
  ∀ (h : Hart 16) (rs1 : Reg16) (imm4 : BitVec 4),
    (address16 h rs1 imm4).toNat = ((h.x rs1).toNat + imm4.toNat) % 2 ^ 16

/-- The five RVL32 loads from ordinary memory that is aligned and valid: they complete, and write the bytes as each rule
widens them (42_loads_stores.md R151 to R156). -/
def Obligations.LoadResults32 : Prop :=
  ∀ (s : State) (rd rs1 : Reg32) (imm12 : BitVec 12),
    let h := s.rvl32
    let addr := address32 h rs1 imm12
    (h.AccessOk .load addr 1 → h.OrdinaryAt addr 1 →
      (∃ t, exec (.lb rd rs1 imm12) s = .next t ∧
        Wrote32 s t rd (BitVec.ofInt 32 (h.byteAt addr 0).toInt) (h.pc + 4#32)) ∧
      ∃ t, exec (.lbu rd rs1 imm12) s = .next t ∧
        Wrote32 s t rd (BitVec.ofNat 32 (h.byteAt addr 0).toNat) (h.pc + 4#32)) ∧
    (h.AccessOk .load addr 2 → h.OrdinaryAt addr 2 →
      (∃ t, exec (.lh rd rs1 imm12) s = .next t ∧
        Wrote32 s t rd (BitVec.ofInt 32 (h.byteAt addr 1 ++ h.byteAt addr 0).toInt) (h.pc + 4#32)) ∧
      ∃ t, exec (.lhu rd rs1 imm12) s = .next t ∧
        Wrote32 s t rd (BitVec.ofNat 32 (h.byteAt addr 1 ++ h.byteAt addr 0).toNat) (h.pc + 4#32)) ∧
    (h.AccessOk .load addr 4 → h.OrdinaryAt addr 4 →
      ∃ t, exec (.lw rd rs1 imm12) s = .next t ∧
        Wrote32 s t rd (h.byteAt addr 3 ++ h.byteAt addr 2 ++ h.byteAt addr 1 ++ h.byteAt addr 0) (h.pc + 4#32))

/-- The three RVL32 stores to ordinary memory that is aligned and valid: they complete, and store the low bytes of the
register of the `rd` field at the effective address, no other byte (42_loads_stores.md R157 to R160). -/
def Obligations.StoreResults32 : Prop :=
  ∀ (s : State) (rd rs1 : Reg32) (imm12 : BitVec 12),
    let h := s.rvl32
    let addr := address32 h rs1 imm12
    Memory.wf 32 h.mem = true →
    (h.AccessOk .store addr 1 → h.OrdinaryAt addr 1 →
      ∃ t, exec (.sb rd rs1 imm12) s = .next t ∧ Stored32 s t (h.x rd) addr 1) ∧
    (h.AccessOk .store addr 2 → h.OrdinaryAt addr 2 →
      ∃ t, exec (.sh rd rs1 imm12) s = .next t ∧ Stored32 s t (h.x rd) addr 2) ∧
    (h.AccessOk .store addr 4 → h.OrdinaryAt addr 4 →
      ∃ t, exec (.sw rd rs1 imm12) s = .next t ∧ Stored32 s t (h.x rd) addr 4)

/-- The two V16 loads from ordinary memory that is aligned and valid complete (49_v16_control_memory.md R279, R280, R282). -/
def Obligations.LoadResults16 : Prop :=
  ∀ (s : State) (rd rs1 : Reg16) (imm4 : BitVec 4),
    let h := s.v16
    let addr := address16 h rs1 imm4
    (h.AccessOk .load addr 1 → h.OrdinaryAt addr 1 →
      ∃ t, exec (.v16Lb rd rs1 imm4) s = .next t ∧
        Wrote16 s t rd (BitVec.ofInt 16 (h.byteAt addr 0).toInt) (h.pc + 2#16)) ∧
    (h.AccessOk .load addr 2 → h.OrdinaryAt addr 2 →
      ∃ t, exec (.v16Lw rd rs1 imm4) s = .next t ∧
        Wrote16 s t rd (h.byteAt addr 1 ++ h.byteAt addr 0) (h.pc + 2#16))

/-- The two V16 stores to ordinary memory that is aligned and valid complete (49_v16_control_memory.md R279, R281, R283). -/
def Obligations.StoreResults16 : Prop :=
  ∀ (s : State) (rd rs1 : Reg16) (imm4 : BitVec 4),
    let h := s.v16
    let addr := address16 h rs1 imm4
    Memory.wf 16 h.mem = true →
    (h.AccessOk .store addr 1 → h.OrdinaryAt addr 1 →
      ∃ t, exec (.v16Sb rd rs1 imm4) s = .next t ∧ Stored16 s t (h.x rd) addr 1) ∧
    (h.AccessOk .store addr 2 → h.OrdinaryAt addr 2 →
      ∃ t, exec (.v16Sw rd rs1 imm4) s = .next t ∧ Stored16 s t (h.x rd) addr 2)

/-- The faults of data accesses and their order (20_memory.md R54, R55; 60_exceptions.md R306 steps 7, 8): under
`MISALIGNED_POLICY = fault` a misaligned access faults before validity is asked; an aligned access that is not valid
faults; under `bytewise` a misaligned access with a byte that is not valid faults, with the first such byte's address (the
model's choice of payload, log 13); each with nothing else changed. -/
def Obligations.DataFaultsInOrder : Prop :=
  (∀ (s : State) (rd rs1 : Reg32) (imm12 : BitVec 12),
    let addr := address32 s.rvl32 rs1 imm12
    let p := s.rvl32.platform
    ∀ iw ∈ [(Instr.lb rd rs1 imm12, AccessKind.load, 1), (.lbu rd rs1 imm12, .load, 1), (.lh rd rs1 imm12, .load, 2),
        (.lhu rd rs1 imm12, .load, 2), (.lw rd rs1 imm12, .load, 4), (.sb rd rs1 imm12, .store, 1),
        (.sh rd rs1 imm12, .store, 2), (.sw rd rs1 imm12, .store, 4)],
      (p.misaligned = .fault → addr.toNat % iw.2.2 ≠ 0 →
        ∃ t, exec iw.1 s = .next t ∧ Faulted32 s t (.misalignedAccess addr.toNat)) ∧
      (addr.toNat % iw.2.2 = 0 → p.valid iw.2.1 addr.toNat iw.2.2 = false →
        ∃ t, exec iw.1 s = .next t ∧ Faulted32 s t (.accessFault addr.toNat)) ∧
      ∀ k, p.misaligned = .bytewise → addr.toNat % iw.2.2 ≠ 0 → k < iw.2.2 →
        (∀ j, j < k → p.valid iw.2.1 (addr + BitVec.ofNat 32 j).toNat 1 = true) →
        p.valid iw.2.1 (addr + BitVec.ofNat 32 k).toNat 1 = false →
        ∃ t, exec iw.1 s = .next t ∧ Faulted32 s t (.accessFault (addr + BitVec.ofNat 32 k).toNat)) ∧
  ∀ (s : State) (rd rs1 : Reg16) (imm4 : BitVec 4),
    let addr := address16 s.v16 rs1 imm4
    let p := s.v16.platform
    ∀ iw ∈ [(Instr.v16Lb rd rs1 imm4, AccessKind.load, 1), (.v16Lw rd rs1 imm4, .load, 2),
        (.v16Sb rd rs1 imm4, .store, 1), (.v16Sw rd rs1 imm4, .store, 2)],
      (p.misaligned = .fault → addr.toNat % iw.2.2 ≠ 0 →
        ∃ t, exec iw.1 s = .next t ∧ Faulted16 s t (.misalignedAccess addr.toNat)) ∧
      (addr.toNat % iw.2.2 = 0 → p.valid iw.2.1 addr.toNat iw.2.2 = false →
        ∃ t, exec iw.1 s = .next t ∧ Faulted16 s t (.accessFault addr.toNat)) ∧
      ∀ k, p.misaligned = .bytewise → addr.toNat % iw.2.2 ≠ 0 → k < iw.2.2 →
        (∀ j, j < k → p.valid iw.2.1 (addr + BitVec.ofNat 16 j).toNat 1 = true) →
        p.valid iw.2.1 (addr + BitVec.ofNat 16 k).toNat 1 = false →
        ∃ t, exec iw.1 s = .next t ∧ Faulted16 s t (.accessFault (addr + BitVec.ofNat 16 k).toNat)

/-- Under `MISALIGNED_POLICY = bytewise` a misaligned access of either machine whose bytes are each valid and ordinary is
performed by the formulas of 20_memory.md R52 (R54). -/
def Obligations.BytewiseAccesses : Prop :=
  (∀ (s : State) (rd rs1 : Reg32) (imm12 : BitVec 12),
    let h := s.rvl32
    let addr := address32 h rs1 imm12
    h.platform.misaligned = .bytewise → Memory.wf 32 h.mem = true →
    (addr.toNat % 4 ≠ 0 → h.OrdinaryAt addr 4 →
      ((∀ k, k < 4 → h.platform.valid .load (addr + BitVec.ofNat 32 k).toNat 1 = true) →
        ∃ t, exec (.lw rd rs1 imm12) s = .next t ∧
          Wrote32 s t rd (h.byteAt addr 3 ++ h.byteAt addr 2 ++ h.byteAt addr 1 ++ h.byteAt addr 0) (h.pc + 4#32)) ∧
      ((∀ k, k < 4 → h.platform.valid .store (addr + BitVec.ofNat 32 k).toNat 1 = true) →
        ∃ t, exec (.sw rd rs1 imm12) s = .next t ∧ Stored32 s t (h.x rd) addr 4)) ∧
    (addr.toNat % 2 ≠ 0 → h.OrdinaryAt addr 2 →
      ((∀ k, k < 2 → h.platform.valid .load (addr + BitVec.ofNat 32 k).toNat 1 = true) →
        (∃ t, exec (.lh rd rs1 imm12) s = .next t ∧
          Wrote32 s t rd (BitVec.ofInt 32 (h.byteAt addr 1 ++ h.byteAt addr 0).toInt) (h.pc + 4#32)) ∧
        ∃ t, exec (.lhu rd rs1 imm12) s = .next t ∧
          Wrote32 s t rd (BitVec.ofNat 32 (h.byteAt addr 1 ++ h.byteAt addr 0).toNat) (h.pc + 4#32)) ∧
      ((∀ k, k < 2 → h.platform.valid .store (addr + BitVec.ofNat 32 k).toNat 1 = true) →
        ∃ t, exec (.sh rd rs1 imm12) s = .next t ∧ Stored32 s t (h.x rd) addr 2))) ∧
  ∀ (s : State) (rd rs1 : Reg16) (imm4 : BitVec 4),
    let h := s.v16
    let addr := address16 h rs1 imm4
    h.platform.misaligned = .bytewise → Memory.wf 16 h.mem = true → addr.toNat % 2 ≠ 0 → h.OrdinaryAt addr 2 →
      ((∀ k, k < 2 → h.platform.valid .load (addr + BitVec.ofNat 16 k).toNat 1 = true) →
        ∃ t, exec (.v16Lw rd rs1 imm4) s = .next t ∧
          Wrote16 s t rd (h.byteAt addr 1 ++ h.byteAt addr 0) (h.pc + 2#16)) ∧
      ((∀ k, k < 2 → h.platform.valid .store (addr + BitVec.ofNat 16 k).toNat 1 = true) →
        ∃ t, exec (.v16Sw rd rs1 imm4) s = .next t ∧ Stored16 s t (h.x rd) addr 2)

/-- Mixed-width accesses see bytes (20_memory.md R53): after `SW` to an aligned word `A` of ordinary memory, `LBU` from
`A + k` gives byte `k` of the value and `LHU` from `A + 2` its upper half; after V16 `SW` to `A`, `LB` from `A` and
`A + 1` give the two bytes sign-extended. The loads read through a register whose value the statement gives. -/
def Obligations.MixedWidthBytes : Prop :=
  (∀ (s t u v : State) (rd rs1 rd2 rs2 : Reg32) (imm12 : BitVec 12) (k : Nat),
    let addr := address32 s.rvl32 rs1 imm12
    Memory.wf 32 s.rvl32.mem = true → s.rvl32.AccessOk .store addr 4 → s.rvl32.OrdinaryAt addr 4 →
    (∀ j, j < 4 → s.rvl32.platform.valid .load (addr + BitVec.ofNat 32 j).toNat 1 = true) →
    s.rvl32.platform.valid .load (addr + 2#32).toNat 2 = true →
    exec (.sw rd rs1 imm12) s = .next t → rd2 ≠ 0 → k < 4 →
    (t.rvl32.x rs2 = addr + BitVec.ofNat 32 k → exec (.lbu rd2 rs2 0#12) t = .next u →
      u.rvl32.x rd2 = BitVec.ofNat 32 ((s.rvl32.x rd).toNat / 256 ^ k % 256)) ∧
    (t.rvl32.x rs2 = addr + 2#32 → exec (.lhu rd2 rs2 0#12) t = .next v →
      v.rvl32.x rd2 = BitVec.ofNat 32 ((s.rvl32.x rd).toNat / 65536))) ∧
  ∀ (s t u : State) (rd rs1 rd2 rs2 : Reg16) (imm4 : BitVec 4) (k : Nat),
    let addr := address16 s.v16 rs1 imm4
    Memory.wf 16 s.v16.mem = true → s.v16.AccessOk .store addr 2 → s.v16.OrdinaryAt addr 2 →
    (∀ j, j < 2 → s.v16.platform.valid .load (addr + BitVec.ofNat 16 j).toNat 1 = true) →
    exec (.v16Sw rd rs1 imm4) s = .next t → rd2 ≠ 0 → k < 2 → t.v16.x rs2 = addr + BitVec.ofNat 16 k →
    exec (.v16Lb rd2 rs2 0#4) t = .next u →
      u.v16.x rd2 = BitVec.ofInt 16 ((s.v16.x rd).extractLsb' (8 * k) 8).toInt

/-- Instruction-fetch coherence (20_memory.md R62), after any completed store of either machine: aligned, split, to memory or
to a device, whose addresses join `stored` too (log 14). Under `refuse`, a fetch anywhere that touches a stored byte
raises `FetchAfterStore` with the pc. Under `coherent`, a fetch anywhere from ordinary memory runs the instruction whose
word has the stored bytes where the store put them and the old bytes of memory elsewhere. -/
def Obligations.FetchAfterStore : Prop :=
  (∀ (s t : State) (rd rs1 : Reg32) (imm12 : BitVec 12),
    let addr := address32 s.rvl32 rs1 imm12
    s.isa = .rvl32 → s.rvl32.fault = none → s.waiting = false → Memory.wf 32 s.rvl32.mem = true →
    ∀ iw ∈ [(Instr.sb rd rs1 imm12, 1), (.sh rd rs1 imm12, 2), (.sw rd rs1 imm12, 4)],
      exec iw.1 s = .next t → t.rvl32.fault = none →
      ∀ p : Word32, p.toNat % 4 = 0 → s.rvl32.platform.valid .fetch p.toNat 4 = true →
        (s.rvl32.platform.smc = .refuse → (∃ a, touched addr iw.2 a ∧ touched p 4 a) →
          ∃ u, step { t with rvl32 := t.rvl32.jump p } = .next u ∧
            Faulted32 { t with rvl32 := t.rvl32.jump p } u (.fetchAfterStore p.toNat)) ∧
        ∀ (i : Instr) (w : Word32), s.rvl32.platform.smc = .coherent → s.rvl32.OrdinaryAt p 4 →
          (∀ k, k < 4 →
            (∀ j, j < iw.2 → p + BitVec.ofNat 32 k = addr + BitVec.ofNat 32 j →
              w.extractLsb' (8 * k) 8 = (s.rvl32.x rd).extractLsb' (8 * j) 8) ∧
            (¬ touched addr iw.2 (p + BitVec.ofNat 32 k).toNat →
              w.extractLsb' (8 * k) 8 = s.rvl32.byteAt p k)) →
          i.WellFormed → decode (.rvl32 w) = .ok i →
          step { t with rvl32 := t.rvl32.jump p } = exec i { t with rvl32 := t.rvl32.jump p }) ∧
  ∀ (s t : State) (rd rs1 : Reg16) (imm4 : BitVec 4),
    let addr := address16 s.v16 rs1 imm4
    s.isa = .v16 → s.v16.fault = none → Memory.wf 16 s.v16.mem = true →
    ∀ iw ∈ [(Instr.v16Sb rd rs1 imm4, 1), (.v16Sw rd rs1 imm4, 2)],
      exec iw.1 s = .next t → t.v16.fault = none →
      ∀ p : Word16, p.toNat % 2 = 0 → s.v16.platform.valid .fetch p.toNat 2 = true →
        (s.v16.platform.smc = .refuse → (∃ a, touched addr iw.2 a ∧ touched p 2 a) →
          ∃ u, step { t with v16 := t.v16.jump p } = .next u ∧
            Faulted16 { t with v16 := t.v16.jump p } u (.fetchAfterStore p.toNat)) ∧
        ∀ (i : Instr) (w : Word16), s.v16.platform.smc = .coherent → s.v16.OrdinaryAt p 2 →
          (∀ k, k < 2 →
            (∀ j, j < iw.2 → p + BitVec.ofNat 16 k = addr + BitVec.ofNat 16 j →
              w.extractLsb' (8 * k) 8 = (s.v16.x rd).extractLsb' (8 * j) 8) ∧
            (¬ touched addr iw.2 (p + BitVec.ofNat 16 k).toNat →
              w.extractLsb' (8 * k) 8 = s.v16.byteAt p k)) →
          i.WellFormed → decode (.v16 w) = .ok i →
          step { t with v16 := t.v16.jump p } = exec i { t with v16 := t.v16.jump p }

/-- Loads and stores that touch a byte of a device, on both machines (20_memory.md R58, R59, 10_state.md R42). They complete,
with no fault. A load sees each device byte as a value nothing fixes (the model's free value, log 8) and changes no
memory; a store leaves memory at a device's address as it is and stores its other bytes; its addresses join `stored` under
`refuse` (log 14). The platform is handed one access of the instruction's width, or, where `bytewise` splits a misaligned
one, an access of one byte for each device byte, in ascending order (log 7). A load to x0 still performs the access. -/
def Obligations.DeviceAccesses : Prop :=
  (∀ (s : State) (rd rs1 : Reg32) (imm12 : BitVec 12),
    let h := s.rvl32
    let addr := address32 h rs1 imm12
    let b := h.byteSeen addr
    (∀ iv ∈ [(Instr.lb rd rs1 imm12, 1, BitVec.ofInt 32 (b 0).toInt), (.lbu rd rs1 imm12, 1, BitVec.ofNat 32 (b 0).toNat),
        (.lh rd rs1 imm12, 2, BitVec.ofInt 32 (b 1 ++ b 0).toInt), (.lhu rd rs1 imm12, 2, BitVec.ofNat 32 (b 1 ++ b 0).toNat),
        (.lw rd rs1 imm12, 4, b 3 ++ b 2 ++ b 1 ++ b 0)],
      ¬ h.OrdinaryAt addr iv.2.1 →
      (h.AccessOk .load addr iv.2.1 → ∃ t, exec iv.1 s = .next t ∧ s.SameAround32 t ∧
        h.CompletedLoad t.rvl32 rd iv.2.2 addr iv.2.1 [.read addr.toNat iv.2.1]) ∧
      (h.SplitOk .load addr iv.2.1 → ∃ t, exec iv.1 s = .next t ∧ s.SameAround32 t ∧
        h.CompletedLoad t.rvl32 rd iv.2.2 addr iv.2.1 (h.splitReads addr iv.2.1))) ∧
    ∀ iw ∈ [(Instr.sb rd rs1 imm12, 1), (.sh rd rs1 imm12, 2), (.sw rd rs1 imm12, 4)],
      ¬ h.OrdinaryAt addr iw.2 → Memory.wf 32 h.mem = true →
      (h.AccessOk .store addr iw.2 → ∃ t, exec iw.1 s = .next t ∧ s.SameAround32 t ∧
        h.CompletedStore t.rvl32 (h.x rd) addr iw.2 [.write addr.toNat (valueBytes (h.x rd) iw.2)]) ∧
      (h.SplitOk .store addr iw.2 → ∃ t, exec iw.1 s = .next t ∧ s.SameAround32 t ∧
        h.CompletedStore t.rvl32 (h.x rd) addr iw.2 (h.splitWrites (h.x rd) addr iw.2))) ∧
  ∀ (s : State) (rd rs1 : Reg16) (imm4 : BitVec 4),
    let h := s.v16
    let addr := address16 h rs1 imm4
    let b := h.byteSeen addr
    (∀ iv ∈ [(Instr.v16Lb rd rs1 imm4, 1, BitVec.ofInt 16 (b 0).toInt), (.v16Lw rd rs1 imm4, 2, b 1 ++ b 0)],
      ¬ h.OrdinaryAt addr iv.2.1 →
      (h.AccessOk .load addr iv.2.1 → ∃ t, exec iv.1 s = .next t ∧ s.SameAround16 t ∧
        h.CompletedLoad t.v16 rd iv.2.2 addr iv.2.1 [.read addr.toNat iv.2.1]) ∧
      (h.SplitOk .load addr iv.2.1 → ∃ t, exec iv.1 s = .next t ∧ s.SameAround16 t ∧
        h.CompletedLoad t.v16 rd iv.2.2 addr iv.2.1 (h.splitReads addr iv.2.1))) ∧
    ∀ iw ∈ [(Instr.v16Sb rd rs1 imm4, 1), (.v16Sw rd rs1 imm4, 2)],
      ¬ h.OrdinaryAt addr iw.2 → Memory.wf 16 h.mem = true →
      (h.AccessOk .store addr iw.2 → ∃ t, exec iw.1 s = .next t ∧ s.SameAround16 t ∧
        h.CompletedStore t.v16 (h.x rd) addr iw.2 [.write addr.toNat (valueBytes (h.x rd) iw.2)]) ∧
      (h.SplitOk .store addr iw.2 → ∃ t, exec iw.1 s = .next t ∧ s.SameAround16 t ∧
        h.CompletedStore t.v16 (h.x rd) addr iw.2 (h.splitWrites (h.x rd) addr iw.2))

/-! ### RVL32 results -/

/-- LUI and AUIPC (40_upper_and_jumps.md R130, R131). -/
def Obligations.UpperImmediateResults : Prop :=
  ∀ (s : State) (rd : Reg32) (imm20 : BitVec 20),
    (∃ t, exec (.lui rd imm20) s = .next t ∧
      Wrote32 s t rd (BitVec.ofNat 32 (4096 * imm20.toNat)) (s.rvl32.pc + 4#32)) ∧
    ∃ t, exec (.auipc rd imm20) s = .next t ∧
      Wrote32 s t rd (BitVec.ofNat 32 (s.rvl32.pc.toNat + 4096 * imm20.toNat)) (s.rvl32.pc + 4#32)

/-- JAL and JALR (40_upper_and_jumps.md R132, R134): the link is `pc + 4`, the JALR target uses the old `x[rs1]`, and a
JALR to a target that is not a multiple of 4 faults with nothing changed. -/
def Obligations.JumpResults32 : Prop :=
  (∀ (s : State) (rd : Reg32) (imm20 : BitVec 20),
    ∃ t, exec (.jal rd imm20) s = .next t ∧
      Wrote32 s t rd (s.rvl32.pc + 4#32) (BitVec.ofInt 32 (s.rvl32.pc.toNat + 4 * imm20.toInt))) ∧
  ∀ (s : State) (rd rs1 : Reg32) (imm12 : BitVec 12),
    let target := BitVec.ofInt 32 ((s.rvl32.x rs1).toNat + 4 * imm12.toInt)
    (target.toNat % 4 = 0 → ∃ t, exec (.jalr rd rs1 imm12) s = .next t ∧
      Wrote32 s t rd (s.rvl32.pc + 4#32) target) ∧
    (target.toNat % 4 ≠ 0 → ∃ t, exec (.jalr rd rs1 imm12) s = .next t ∧
      Faulted32 s t (.misalignedFetch target.toNat))

/-- The six branches: the `rd` register is compared with the `rs1` register, and only the pc changes (41_branches.md
R140 to R147). -/
def Obligations.BranchResults : Prop :=
  ∀ (s : State) (rd rs1 : Reg32) (imm12 : BitVec 12),
    let a := s.rvl32.x rd
    let b := s.rvl32.x rs1
    let target := BitVec.ofInt 32 (s.rvl32.pc.toNat + 4 * imm12.toInt)
    let next := s.rvl32.pc + 4#32
    (∃ t, exec (.beq rd rs1 imm12) s = .next t ∧ Moved32 s t (if a.toNat = b.toNat then target else next)) ∧
    (∃ t, exec (.bne rd rs1 imm12) s = .next t ∧ Moved32 s t (if a.toNat = b.toNat then next else target)) ∧
    (∃ t, exec (.blt rd rs1 imm12) s = .next t ∧ Moved32 s t (if a.toInt < b.toInt then target else next)) ∧
    (∃ t, exec (.bge rd rs1 imm12) s = .next t ∧ Moved32 s t (if a.toInt < b.toInt then next else target)) ∧
    (∃ t, exec (.bltu rd rs1 imm12) s = .next t ∧ Moved32 s t (if a.toNat < b.toNat then target else next)) ∧
    ∃ t, exec (.bgeu rd rs1 imm12) s = .next t ∧ Moved32 s t (if a.toNat < b.toNat then next else target)

/-- The six register-immediate instructions with a sign-extended immediate (43_op_imm.md R165 to R171). -/
def Obligations.OpImmResults : Prop :=
  ∀ (s : State) (rd rs1 : Reg32) (imm12 : BitVec 12),
    let a := s.rvl32.x rs1
    let imm := BitVec.ofInt 32 imm12.toInt
    let next := s.rvl32.pc + 4#32
    (∃ t, exec (.addi rd rs1 imm12) s = .next t ∧
      Wrote32 s t rd (BitVec.ofInt 32 (a.toInt + imm12.toInt)) next) ∧
    (∃ t, exec (.slti rd rs1 imm12) s = .next t ∧
      Wrote32 s t rd (if a.toInt < imm12.toInt then 1#32 else 0#32) next) ∧
    (∃ t, exec (.sltiu rd rs1 imm12) s = .next t ∧
      Wrote32 s t rd (if a.toNat < imm.toNat then 1#32 else 0#32) next) ∧
    (∃ t, exec (.xori rd rs1 imm12) s = .next t ∧ Wrote32 s t rd (a ^^^ imm) next) ∧
    (∃ t, exec (.ori rd rs1 imm12) s = .next t ∧ Wrote32 s t rd (a ||| imm) next) ∧
    ∃ t, exec (.andi rd rs1 imm12) s = .next t ∧ Wrote32 s t rd (a &&& imm) next

/-- The three shifts by an immediate of 0 to 31 (43_op_imm.md R165, R172 to R174). -/
def Obligations.ShiftImmediateResults : Prop :=
  ∀ (s : State) (rd rs1 : Reg32) (imm5 : BitVec 5),
    let a := s.rvl32.x rs1
    let next := s.rvl32.pc + 4#32
    (∃ t, exec (.slli rd rs1 imm5) s = .next t ∧ Wrote32 s t rd (BitVec.ofNat 32 (a.toNat * 2 ^ imm5.toNat)) next) ∧
    (∃ t, exec (.srli rd rs1 imm5) s = .next t ∧ Wrote32 s t rd (BitVec.ofNat 32 (a.toNat / 2 ^ imm5.toNat)) next) ∧
    ∃ t, exec (.srai rd rs1 imm5) s = .next t ∧ Wrote32 s t rd (BitVec.ofInt 32 (a.toInt / 2 ^ imm5.toNat)) next

/-- The ten register-register instructions of the base set; the shifts use the low five bits of `x[rs2]` (44_op.md R180
to R190). -/
def Obligations.OpResults : Prop :=
  ∀ (s : State) (rd rs1 rs2 : Reg32),
    let a := s.rvl32.x rs1
    let b := s.rvl32.x rs2
    let sh := b.toNat % 32
    let next := s.rvl32.pc + 4#32
    (∃ t, exec (.add rd rs1 rs2) s = .next t ∧ Wrote32 s t rd (BitVec.ofNat 32 (a.toNat + b.toNat)) next) ∧
    (∃ t, exec (.sub rd rs1 rs2) s = .next t ∧ Wrote32 s t rd (BitVec.ofInt 32 (a.toInt - b.toInt)) next) ∧
    (∃ t, exec (.sll rd rs1 rs2) s = .next t ∧ Wrote32 s t rd (BitVec.ofNat 32 (a.toNat * 2 ^ sh)) next) ∧
    (∃ t, exec (.slt rd rs1 rs2) s = .next t ∧ Wrote32 s t rd (if a.toInt < b.toInt then 1#32 else 0#32) next) ∧
    (∃ t, exec (.sltu rd rs1 rs2) s = .next t ∧ Wrote32 s t rd (if a.toNat < b.toNat then 1#32 else 0#32) next) ∧
    (∃ t, exec (.xor rd rs1 rs2) s = .next t ∧ Wrote32 s t rd (a ^^^ b) next) ∧
    (∃ t, exec (.srl rd rs1 rs2) s = .next t ∧ Wrote32 s t rd (BitVec.ofNat 32 (a.toNat / 2 ^ sh)) next) ∧
    (∃ t, exec (.sra rd rs1 rs2) s = .next t ∧ Wrote32 s t rd (BitVec.ofInt 32 (a.toInt / 2 ^ sh)) next) ∧
    (∃ t, exec (.or rd rs1 rs2) s = .next t ∧ Wrote32 s t rd (a ||| b) next) ∧
    ∃ t, exec (.and rd rs1 rs2) s = .next t ∧ Wrote32 s t rd (a &&& b) next

/-- The four multiplications: MUL gives the low half of the product, the others bits [63:32] of the exact product with
each operand read as its rule says (46_muldiv.md R215 to R219). -/
def Obligations.MultiplyResults : Prop :=
  ∀ (s : State) (rd rs1 rs2 : Reg32),
    let a := s.rvl32.x rs1
    let b := s.rvl32.x rs2
    let next := s.rvl32.pc + 4#32
    (∃ t, exec (.mul rd rs1 rs2) s = .next t ∧ Wrote32 s t rd (BitVec.ofInt 32 (a.toInt * b.toInt)) next) ∧
    (∃ t, exec (.mulh rd rs1 rs2) s = .next t ∧
      Wrote32 s t rd (BitVec.ofInt 32 (a.toInt * b.toInt / 2 ^ 32)) next) ∧
    (∃ t, exec (.mulhsu rd rs1 rs2) s = .next t ∧
      Wrote32 s t rd (BitVec.ofInt 32 (a.toInt * b.toNat / 2 ^ 32)) next) ∧
    ∃ t, exec (.mulhu rd rs1 rs2) s = .next t ∧
      Wrote32 s t rd (BitVec.ofNat 32 (a.toNat * b.toNat / 2 ^ 32)) next

/-- The four divisions, never faulting, with the results for a zero divisor and for the overflowing quotient (46_muldiv.md
R215, R220 to R223). -/
def Obligations.DivideResults : Prop :=
  ∀ (s : State) (rd rs1 rs2 : Reg32),
    let a := s.rvl32.x rs1
    let b := s.rvl32.x rs2
    let next := s.rvl32.pc + 4#32
    let overflow := a.toInt = -2 ^ 31 ∧ b.toInt = -1
    (∃ t, exec (.div rd rs1 rs2) s = .next t ∧ Wrote32 s t rd
      (if b.toNat = 0 then 0xFFFFFFFF#32 else if overflow then 0x80000000#32
        else BitVec.ofInt 32 (a.toInt.tdiv b.toInt)) next) ∧
    (∃ t, exec (.divu rd rs1 rs2) s = .next t ∧ Wrote32 s t rd
      (if b.toNat = 0 then 0xFFFFFFFF#32 else BitVec.ofNat 32 (a.toNat / b.toNat)) next) ∧
    (∃ t, exec (.rem rd rs1 rs2) s = .next t ∧ Wrote32 s t rd
      (if b.toNat = 0 then a else if overflow then 0#32 else BitVec.ofInt 32 (a.toInt.tmod b.toInt)) next) ∧
    ∃ t, exec (.remu rd rs1 rs2) s = .next t ∧ Wrote32 s t rd
      (if b.toNat = 0 then a else BitVec.ofNat 32 (a.toNat % b.toNat)) next

/-- Quotient and remainder belong together (46_muldiv.md R215): with a nonzero divisor and no overflow the dividend is
quotient times divisor plus remainder, the remainder is smaller than the divisor in magnitude and has the dividend's sign
or is zero. -/
def Obligations.DivisionIdentity : Prop :=
  ∀ (s tq tr : State) (rd rs1 rs2 : Reg32),
    let a := s.rvl32.x rs1
    let b := s.rvl32.x rs2
    rd ≠ 0 → b ≠ 0#32 →
    (¬ (a = 0x80000000#32 ∧ b = 0xFFFFFFFF#32) →
      exec (.div rd rs1 rs2) s = .next tq → exec (.rem rd rs1 rs2) s = .next tr →
      a.toInt = (tq.rvl32.x rd).toInt * b.toInt + (tr.rvl32.x rd).toInt ∧
      |(tr.rvl32.x rd).toInt| < |b.toInt| ∧ 0 ≤ a.toInt * (tr.rvl32.x rd).toInt) ∧
    (exec (.divu rd rs1 rs2) s = .next tq → exec (.remu rd rs1 rs2) s = .next tr →
      a.toNat = (tq.rvl32.x rd).toNat * b.toNat + (tr.rvl32.x rd).toNat ∧ (tr.rvl32.x rd).toNat < b.toNat)

/-- The six CSR instructions on a CSR that is plain storage: `x[rd]` gets the old value, the CSR the new one, always, and
nothing else changes but the pc (45_misc_mem_system.md R200 to R206). -/
def Obligations.CsrStorageResults : Prop :=
  ∀ (s : State) (rd rs1 : Reg32) (imm5 : BitVec 5) (c : BitVec 6) (old : Word32), s.csr c = .storage old →
    let a := s.rvl32.x rs1
    let imm := BitVec.ofNat 32 imm5.toNat
    ∀ iv ∈ [(Instr.csrrw rd rs1 c, a), (.csrrs rd rs1 c, old ||| a), (.csrrc rd rs1 c, old &&& ~~~a),
        (.csrrwi rd imm5 c, imm), (.csrrsi rd imm5 c, old ||| imm), (.csrrci rd imm5 c, old &&& ~~~imm)],
      ∃ t, exec iv.1 s = .next t ∧ t.csr c = .storage iv.2 ∧ (∀ d, d ≠ c → t.csr d = s.csr d) ∧
        (rd ≠ 0 → t.rvl32.x rd = old) ∧ t.rvl32.pc = s.rvl32.pc + 4#32 ∧
        s.rvl32.SameRegsBut t.rvl32 (some rd) ∧ s.rvl32.SameMemory t.rvl32 ∧ s.rvl32.SameHidden t.rvl32 ∧
        t.isa = s.isa ∧ t.waiting = s.waiting ∧ t.wake = s.wake ∧ t.v16 = s.v16 ∧ t.imm3Signed = s.imm3Signed

/-- A CSR that does not exist: the six instructions raise `UndefinedCsr` with its index and write nothing (10_state.md R31). -/
def Obligations.CsrAbsentFaults : Prop :=
  ∀ (s : State) (rd rs1 : Reg32) (imm5 : BitVec 5) (c : BitVec 6), s.csr c = .absent →
    ∀ i ∈ [Instr.csrrw rd rs1 c, .csrrs rd rs1 c, .csrrc rd rs1 c, .csrrwi rd imm5 c, .csrrsi rd imm5 c,
        .csrrci rd imm5 c],
      ∃ t, exec i s = .next t ∧ Faulted32 s t (.undefinedCsr c.toNat)

/-- A CSR of the platform's of which nothing is said (10_state.md R31): the read gives a value nothing fixes (the model's free
value, log 8), the value written is handed to the platform after the read (log 12), the cell stays as it is, and nothing
else changes but the pc. -/
def Obligations.CsrPlatformPort : Prop :=
  ∀ (s : State) (rd rs1 : Reg32) (imm5 : BitVec 5) (c : BitVec 6), s.csr c = .external →
    let old := Config.unspecified 32 s.rvl32.draws 32
    let a := s.rvl32.x rs1
    let imm := BitVec.ofNat 32 imm5.toNat
    ∀ iv ∈ [(Instr.csrrw rd rs1 c, a), (.csrrs rd rs1 c, old ||| a), (.csrrc rd rs1 c, old &&& ~~~a),
        (.csrrwi rd imm5 c, imm), (.csrrsi rd imm5 c, old ||| imm), (.csrrci rd imm5 c, old &&& ~~~imm)],
      ∃ t, exec iv.1 s = .next t ∧ t.rvl32.io = .csrWrite c.toNat iv.2 :: .csrRead c.toNat :: s.rvl32.io ∧
        t.rvl32.draws = s.rvl32.draws + 1 ∧ (rd ≠ 0 → t.rvl32.x rd = old) ∧ t.rvl32.pc = s.rvl32.pc + 4#32 ∧
        s.rvl32.SameRegsBut t.rvl32 (some rd) ∧ s.rvl32.SameMemory t.rvl32 ∧ t.rvl32.stored = s.rvl32.stored ∧
        t.rvl32.fault = s.rvl32.fault ∧ t.rvl32.platform = s.rvl32.platform ∧ s.SameAround32 t

/-- A CSR for which the platform supplies a read value function and a write effect (10_state.md R30, R31,
93_implementation_defined.md U10; in the model's form, log 12): `x[rd]` gets the function's value, then the effect of
writing the new value gives each CSR it lists its value, from what the CSRs held before and the value written; every CSR it
does not list, and all else but the pc, stays. -/
def Obligations.CsrFunctionResults : Prop :=
  ∀ (s : State) (rd rs1 : Reg32) (imm5 : BitVec 5) (c : BitVec 6) (v : Word32) (read : CsrExpr)
    (effect : List (BitVec 6 × CsrExpr)), s.csr c = .supplied v read effect →
    let old := s.csrEval 0#32 read
    let a := s.rvl32.x rs1
    let imm := BitVec.ofNat 32 imm5.toNat
    ∀ iv ∈ [(Instr.csrrw rd rs1 c, a), (.csrrs rd rs1 c, old ||| a), (.csrrc rd rs1 c, old &&& ~~~a),
        (.csrrwi rd imm5 c, imm), (.csrrsi rd imm5 c, old ||| imm), (.csrrci rd imm5 c, old &&& ~~~imm)],
      ∃ t, exec iv.1 s = .next t ∧
        (∀ pre d e post, effect = pre ++ (d, e) :: post → (∀ p ∈ pre, p.1 ≠ d) →
          t.csr d = CsrCell.hold (s.csrEval iv.2 e) (s.csr d)) ∧
        (∀ d, (∀ p ∈ effect, p.1 ≠ d) → t.csr d = s.csr d) ∧
        (rd ≠ 0 → t.rvl32.x rd = old) ∧ t.rvl32.pc = s.rvl32.pc + 4#32 ∧
        s.rvl32.SameRegsBut t.rvl32 (some rd) ∧ s.rvl32.SameMemory t.rvl32 ∧ s.rvl32.SameHidden t.rvl32 ∧
        t.isa = s.isa ∧ t.waiting = s.waiting ∧ t.wake = s.wake ∧ t.v16 = s.v16 ∧ t.imm3Signed = s.imm3Signed

/-- The four rows marked NOT IMPLEMENTED raise `Unimplemented` with their own word and change nothing else; FENCE and
FENCE.I are every word with their opcode and func3 (45_misc_mem_system.md R194 to R198, 60_exceptions.md R304). -/
def Obligations.UnimplementedRows : Prop :=
  (∀ (s : State) (hi : BitVec 17) (mid : BitVec 5),
    (∃ t, exec (.fence hi mid) s = .next t ∧
      Faulted32 s t (.unimplemented (hi.toNat * 2 ^ 15 + mid.toNat * 2 ^ 7 + 0x0F))) ∧
    ∃ t, exec (.fenceI hi mid) s = .next t ∧
      Faulted32 s t (.unimplemented (hi.toNat * 2 ^ 15 + 2 ^ 12 + mid.toNat * 2 ^ 7 + 0x0F))) ∧
  (∀ s : State, (∃ t, exec .ecall s = .next t ∧ Faulted32 s t (.unimplemented 0x00000073)) ∧
    ∃ t, exec .ebreak s = .next t ∧ Faulted32 s t (.unimplemented 0x00100073)) ∧
  ∀ w : Word32, (w &&& 0x0000707F#32 = 0x0000000F#32 ↔ ∃ hi mid, decode (.rvl32 w) = .ok (.fence hi mid) ∧
      w.toNat = hi.toNat * 2 ^ 15 + mid.toNat * 2 ^ 7 + 0x0F) ∧
    (w &&& 0x0000707F#32 = 0x0000100F#32 ↔ ∃ hi mid, decode (.rvl32 w) = .ok (.fenceI hi mid) ∧
      w.toNat = hi.toNat * 2 ^ 15 + 2 ^ 12 + mid.toNat * 2 ^ 7 + 0x0F) ∧
    (w = 0x00000073#32 ↔ decode (.rvl32 w) = .ok .ecall) ∧ (w = 0x00100073#32 ↔ decode (.rvl32 w) = .ok .ebreak)

/-! ### V16 results -/

/-- V16 AND, OR, XOR, NOT, ADD, SUB and SWP (48_v16_alu.md R240 to R244, R247 to R249). AND, OR and XOR with `rs2` x0 are
terms that no word holds; that they do what their fields say is the model's choice (log 24). -/
def Obligations.LogicAndSumResults16 : Prop :=
  ∀ (s : State) (rd rs1 rs2 : Reg16),
    let a := s.v16.x rs1
    let b := s.v16.x rs2
    let next := s.v16.pc + 2#16
    (∃ t, exec (.v16And rd rs1 rs2) s = .next t ∧ Wrote16 s t rd (a &&& b) next) ∧
    (∃ t, exec (.v16Or rd rs1 rs2) s = .next t ∧ Wrote16 s t rd (a ||| b) next) ∧
    (∃ t, exec (.v16Xor rd rs1 rs2) s = .next t ∧ Wrote16 s t rd (a ^^^ b) next) ∧
    (∃ t, exec (.v16Not rd rs1) s = .next t ∧ Wrote16 s t rd (a ^^^ 0xFFFF#16) next) ∧
    (∃ t, exec (.v16Add rd rs1 rs2) s = .next t ∧ Wrote16 s t rd (BitVec.ofNat 16 (a.toNat + b.toNat)) next) ∧
    (∃ t, exec (.v16Sub rd rs1 rs2) s = .next t ∧ Wrote16 s t rd (BitVec.ofInt 16 (a.toInt - b.toInt)) next) ∧
    ∃ t, exec (.v16Swp rd rs1) s = .next t ∧
      Wrote16 s t rd (BitVec.ofNat 16 (a.toNat % 256 * 256 + a.toNat / 256)) next

/-- V16 LI, LUI and AUIPC: LI sign-extends, LUI and AUIPC keep the low byte of `x[rd]` (48_v16_alu.md R250 to R252). With `rd`
x0 they are terms that no word holds; that these only go on to the next instruction is the model's choice (log 24). -/
def Obligations.ConstantResults16 : Prop :=
  ∀ (s : State) (rd : Reg16) (imm8 : BitVec 8),
    let low := (s.v16.x rd).toNat % 256
    let next := s.v16.pc + 2#16
    (∃ t, exec (.v16Li rd imm8) s = .next t ∧ Wrote16 s t rd (BitVec.ofInt 16 imm8.toInt) next) ∧
    (∃ t, exec (.v16Lui rd imm8) s = .next t ∧ Wrote16 s t rd (BitVec.ofNat 16 (imm8.toNat * 256 + low)) next) ∧
    ∃ t, exec (.v16Auipc rd imm8) s = .next t ∧
      Wrote16 s t rd (BitVec.ofNat 16 ((s.v16.pc.toNat / 256 + imm8.toNat) % 256 * 256 + low)) next

/-- V16 ADDI under both settings of `V16_IMM3_SIGNED`; field values 0 to 3 mean the same under both (48_v16_alu.md R253). -/
def Obligations.AddImmediateResults16 : Prop :=
  ∀ (s : State) (rd rs1 : Reg16) (imm3 : BitVec 3),
    let a := s.v16.x rs1
    let next := s.v16.pc + 2#16
    (s.imm3Signed = true → ∃ t, exec (.v16Addi rd rs1 imm3) s = .next t ∧
      Wrote16 s t rd (BitVec.ofInt 16 (a.toInt + imm3.toInt)) next) ∧
    (s.imm3Signed = false → ∃ t, exec (.v16Addi rd rs1 imm3) s = .next t ∧
      Wrote16 s t rd (BitVec.ofNat 16 (a.toNat + imm3.toNat)) next) ∧
    (imm3.toNat < 4 → ∃ t, exec (.v16Addi rd rs1 imm3) s = .next t ∧
      Wrote16 s t rd (BitVec.ofNat 16 (a.toNat + imm3.toNat)) next)

/-- V16 SRL and SRA by an amount of -15 to 15: right for a positive amount, left for a negative one; SRL lets zeros in, SRA
copies of bit 15 or of bit 0 (48_v16_alu.md R245, R246). With `rs2` x0 they are terms that no word holds; that these shift
by zero is the model's choice (log 24). -/
def Obligations.ShiftResults16 : Prop :=
  ∀ (s : State) (rd rs1 rs2 : Reg16),
    let a := s.v16.x rs1
    let n := (s.v16.x rs2).toInt
    let m := (-n).toNat
    let next := s.v16.pc + 2#16
    (0 ≤ n → n ≤ 15 →
      (∃ t, exec (.v16Srl rd rs1 rs2) s = .next t ∧ Wrote16 s t rd (BitVec.ofNat 16 (a.toNat / 2 ^ n.toNat)) next) ∧
      ∃ t, exec (.v16Sra rd rs1 rs2) s = .next t ∧ Wrote16 s t rd (BitVec.ofInt 16 (a.toInt / 2 ^ n.toNat)) next) ∧
    (-15 ≤ n → n < 0 →
      (∃ t, exec (.v16Srl rd rs1 rs2) s = .next t ∧ Wrote16 s t rd (BitVec.ofNat 16 (a.toNat * 2 ^ m)) next) ∧
      ∃ t, exec (.v16Sra rd rs1 rs2) s = .next t ∧
        Wrote16 s t rd (BitVec.ofNat 16 (a.toNat * 2 ^ m + if a.toNat % 2 = 1 then 2 ^ m - 1 else 0)) next)

/-- V16 SRL and SRA by any other amount complete too: `x[rd]` gets a value nothing fixes, drawn afresh (the model's free
value for the spec's `unspecified_16()`, log 8), and nothing else changes but the pc (48_v16_alu.md R245, R246). -/
def Obligations.ShiftOutOfRange16 : Prop :=
  ∀ (s : State) (rd rs1 rs2 : Reg16), (s.v16.x rs2).toInt < -15 ∨ 15 < (s.v16.x rs2).toInt →
    ∀ i ∈ [Instr.v16Srl rd rs1 rs2, .v16Sra rd rs1 rs2],
      ∃ t, exec i s = .next t ∧ (rd ≠ 0 → t.v16.x rd = Config.unspecified 16 s.v16.draws 16) ∧
        t.v16.draws = s.v16.draws + 1 ∧ t.v16.pc = s.v16.pc + 2#16 ∧ s.v16.SameRegsBut t.v16 (some rd) ∧
        s.v16.SameMemory t.v16 ∧ t.v16.stored = s.v16.stored ∧ t.v16.fault = s.v16.fault ∧
        t.v16.platform = s.v16.platform ∧ t.v16.io = s.v16.io ∧ s.SameAround16 t

/-- V16 JAL and JALR: the link is `pc + 2`, JALR's target is the old `x[rs1]`, and an odd target faults with nothing
changed (49_v16_control_memory.md R271, R272). -/
def Obligations.JumpResults16 : Prop :=
  (∀ (s : State) (rd : Reg16) (imm8 : BitVec 8),
    ∃ t, exec (.v16Jal rd imm8) s = .next t ∧
      Wrote16 s t rd (s.v16.pc + 2#16) (BitVec.ofInt 16 (s.v16.pc.toNat + 2 * imm8.toInt))) ∧
  ∀ (s : State) (rd rs1 : Reg16),
    ((s.v16.x rs1).toNat % 2 = 0 → ∃ t, exec (.v16Jalr rd rs1) s = .next t ∧
      Wrote16 s t rd (s.v16.pc + 2#16) (s.v16.x rs1)) ∧
    ((s.v16.x rs1).toNat % 2 ≠ 0 → ∃ t, exec (.v16Jalr rd rs1) s = .next t ∧
      Faulted16 s t (.misalignedFetch (s.v16.x rs1).toNat))

/-- The six IFxxx: on to `pc + 2` when the comparison of the `rd` register with the `rs1` register holds, else to `pc + 4`,
and only the pc changes (49_v16_control_memory.md R269, R273 to R278). -/
def Obligations.ConditionalSkip16 : Prop :=
  ∀ (s : State) (rd rs1 : Reg16),
    let a := s.v16.x rd
    let b := s.v16.x rs1
    let next := s.v16.pc + 2#16
    let skip := s.v16.pc + 4#16
    (∃ t, exec (.v16IfEq rd rs1) s = .next t ∧ Moved16 s t (if a.toNat = b.toNat then next else skip)) ∧
    (∃ t, exec (.v16IfNe rd rs1) s = .next t ∧ Moved16 s t (if a.toNat = b.toNat then skip else next)) ∧
    (∃ t, exec (.v16IfLt rd rs1) s = .next t ∧ Moved16 s t (if a.toInt < b.toInt then next else skip)) ∧
    (∃ t, exec (.v16IfGe rd rs1) s = .next t ∧ Moved16 s t (if a.toInt < b.toInt then skip else next)) ∧
    (∃ t, exec (.v16IfLtu rd rs1) s = .next t ∧ Moved16 s t (if a.toNat < b.toNat then next else skip)) ∧
    ∃ t, exec (.v16IfGeu rd rs1) s = .next t ∧ Moved16 s t (if a.toNat < b.toNat then skip else next)

/-- The seven FREE rows enter the terminal fault with their own word and nothing else changes (30_encoding.md R110,
60_exceptions.md R303). -/
def Obligations.FreeRowsFault : Prop :=
  ∀ (s : State) (rd rs1 : Reg16) (imm8 : BitVec 8),
    let word := 4096 * rs1.val + 16 * rd.val
    ∀ iw ∈ [(Instr.v16Free0 rd rs1, word), (.v16Free1 rd rs1, word + 1), (.v16Free3 rd rs1, word + 3),
        (.v16Free8 imm8, 256 * imm8.toNat + 8), (.v16Free9 imm8, 256 * imm8.toNat + 9),
        (.v16Free10 imm8, 256 * imm8.toNat + 10), (.v16Free15 rd rs1, word + 0x70F)],
      ∃ t, exec iw.1 s = .next t ∧ Faulted16 s t (.illegalInstruction iw.2)

/-- The source's carry test: after `add a0 a0 a1`, `ifltu a0 a1` goes on exactly when the unsigned sum wrapped
(48_v16_alu.md R248, 49_v16_control_memory.md R277). -/
def Obligations.CarryTest16 : Prop :=
  ∀ (s t u : State), exec (.v16Add 12 12 13) s = .next t → exec (.v16IfLtu 12 13) t = .next u →
    (u.v16.pc = t.v16.pc + 2#16 ↔ 2 ^ 16 ≤ (s.v16.x 12).toNat + (s.v16.x 13).toNat)

/-! ### Pseudo-instructions -/

/-- RVL32 `li` loads any 32-bit constant and `la` the address of any symbol into any register but x0, changing nothing else
but the pc; for a constant of -2048 to 2047 one instruction does (47_pseudo.md R231, R232). -/
def Obligations.LoadConstantPseudo : Prop :=
  ∀ (s : State) (rd : Reg32) (v : Word32),
    (∃ t, execAll (pseudoLi rd v) s = some t ∧ Wrote32 s t rd v (s.rvl32.pc + 8#32)) ∧
    (-2048 ≤ (lowPart v).toInt ∧ (lowPart v).toInt ≤ 2047) ∧
    (-2048 ≤ v.toInt → v.toInt ≤ 2047 → highPart v = 0#20 ∧ ∃ is t, pseudoLiShort rd v = some is ∧ execAll is s = some t ∧
      Wrote32 s t rd v (s.rvl32.pc + 4#32)) ∧
    ∃ t, execAll (pseudoLa rd s.rvl32.pc v) s = some t ∧ Wrote32 s t rd v (s.rvl32.pc + 8#32)

/-- RVL32 `call` reaches any symbol at a distance that is a multiple of 4: the pc is the symbol, x1 the address after the
`jalr`, x6 the rounded part, nothing else changes; for any other distance there is no expansion (47_pseudo.md R235). -/
def Obligations.CallPseudo : Prop :=
  ∀ (s : State) (symbol : Word32),
    ((symbol - s.rvl32.pc).toNat % 4 = 0 → symbol.toNat % 4 = 0 →
      ∃ f t, pseudoCall s.rvl32.pc symbol = some [.auipc 6 (highPart (symbol - s.rvl32.pc)), .jalr 1 6 f] ∧
        (-512 ≤ f.toInt ∧ f.toInt ≤ 511) ∧
        execAll [.auipc 6 (highPart (symbol - s.rvl32.pc)), .jalr 1 6 f] s = some t ∧
        t.rvl32.pc = symbol ∧ t.rvl32.x 1 = s.rvl32.pc + 8#32 ∧
        t.rvl32.x 6 = s.rvl32.pc + BitVec.ofNat 32 (((symbol - s.rvl32.pc).toNat + 0x800) / 4096 * 4096) ∧
        (∀ r : Reg32, r ≠ 1 → r ≠ 6 → t.rvl32.x r = s.rvl32.x r) ∧ s.rvl32.SameMemory t.rvl32 ∧
        s.rvl32.SameHidden t.rvl32 ∧ s.SameAround32 t) ∧
    ((symbol - s.rvl32.pc).toNat % 4 ≠ 0 → pseudoCall s.rvl32.pc symbol = none)

/-- V16's two-instruction `li` loads any 16-bit constant, and `la` the address of any symbol, into any register but x0,
changing nothing else but the pc; for a constant of -128 to 127 one `li` does (49_v16_control_memory.md R286: `rd` must not
be x0). -/
def Obligations.Constants16Pseudo : Prop :=
  ∀ (s : State) (rd : Reg16) (v : Word16), rd ≠ 0 →
    (∃ t, execAll (pseudoLi16 rd v) s = some t ∧ Wrote16 s t rd v (s.v16.pc + 4#16)) ∧
    (-128 ≤ v.toInt → v.toInt ≤ 127 → ∃ is t, pseudoLiShort16 rd v = some is ∧ execAll is s = some t ∧
      Wrote16 s t rd v (s.v16.pc + 2#16)) ∧
    ∃ t, execAll (pseudoLa16 rd s.v16.pc v) s = some t ∧ Wrote16 s t rd v (s.v16.pc + 4#16)

/-- The converted branch of V16 (49_v16_control_memory.md R287). For a label at an even distance of -256 to 254 bytes from its
JAL it is the IFxxx of the branch's own comparison, with its operands, then a JAL to x0; for any other label there is none.
Run from its first instruction, the IFxxx goes on to the JAL, and the JAL to the label, exactly when the comparison holds,
else the IFxxx goes past both; nothing but the pc changes. -/
def Obligations.BranchConversion16 : Prop :=
  ∀ (s : State) (rd rs1 : Reg16) (label : Word16),
    let a := s.v16.x rd
    let b := s.v16.x rs1
    let pc := s.v16.pc
    let d := (label - (pc + 2#16)).toInt
    ∀ cih ∈ [(Cond.eq, Instr.v16IfEq rd rs1, decide (a.toNat = b.toNat)),
        (.ne, .v16IfNe rd rs1, decide (a.toNat ≠ b.toNat)), (.lt, .v16IfLt rd rs1, decide (a.toInt < b.toInt)),
        (.ge, .v16IfGe rd rs1, decide (b.toInt ≤ a.toInt)), (.ltu, .v16IfLtu rd rs1, decide (a.toNat < b.toNat)),
        (.geu, .v16IfGeu rd rs1, decide (b.toNat ≤ a.toNat))],
      (d % 2 = 0 → -256 ≤ d → d ≤ 254 →
        ∃ f, pseudoBranch16 cih.1 rd rs1 pc label = some [cih.2.1, .v16Jal 0 f] ∧
          (∃ t, exec cih.2.1 s = .next t ∧ Moved16 s t (if cih.2.2 then pc + 2#16 else pc + 4#16)) ∧
          (cih.2.2 = true → ∃ u, execAll [cih.2.1, .v16Jal 0 f] s = some u ∧ Moved16 s u label)) ∧
      (¬ (d % 2 = 0 ∧ -256 ≤ d ∧ d ≤ 254) → pseudoBranch16 cih.1 rd rs1 pc label = none)

end Statements
end

