-- ==== Sys2Proof/Laws/Bytes.lean ====
section
/-! SUPPORT. Little-endian bytes and the numbers they stand for (20_memory.md R52). -/

namespace Sys2Proof

/-- A number has as many bytes as asked for. -/
@[simp] theorem leBytes_length (v : Nat) : ∀ k, (leBytes v k).length = k
  | 0 => rfl
  | k + 1 => by simp [leBytes, leBytes_length]

/-- The bytes of a number stand for it, modulo what they can hold. -/
theorem leNat_leBytes (v : Nat) : ∀ k, leNat (leBytes v k) = v % 256 ^ k
  | 0 => by simp [leBytes, leNat, Nat.mod_one]
  | k + 1 => by
    simp only [leBytes, leNat, leNat_leBytes (v / 256) k, BitVec.toNat_ofNat]
    exact ((congrArg (v % ·) (pow_succ' 256 k)).trans (Nat.mod_mul (x := v) (a := 256))).symm

/-- What `k` bytes stand for is below `256 ^ k`. -/
theorem leNat_lt : ∀ bs : List Byte, leNat bs < 256 ^ bs.length
  | [] => by simp [leNat]
  | b :: bs => by
    have := leNat_lt bs
    have := b.isLt
    simp only [leNat, List.length_cons, pow_succ']
    omega

/-- The bytes of what bytes stand for are those bytes. -/
theorem leBytes_leNat : ∀ bs : List Byte, leBytes (leNat bs) bs.length = bs
  | [] => rfl
  | b :: bs => by
    have hb := b.isLt
    have h1 : (b.toNat + 256 * leNat bs) / 256 = leNat bs := by omega
    simp only [leNat, List.length_cons, leBytes, h1, leBytes_leNat bs]
    congr 1
    apply BitVec.eq_of_toNat_eq
    simp only [BitVec.toNat_ofNat]
    omega

/-- Byte `j` of a number is its bits `8j+7` to `8j` (20_memory.md R52). -/
theorem leBytes_getElem (v : Nat) : ∀ (k j : Nat) (h : j < (leBytes v k).length),
    (leBytes v k)[j] = BitVec.ofNat 8 (v / 256 ^ j)
  | k + 1, 0, _ => by simp [leBytes]
  | k + 1, j + 1, h => by
    simp only [leBytes, List.getElem_cons_succ]
    rw [leBytes_getElem (v / 256) k j, Nat.div_div_eq_div_mul, pow_succ']

end Sys2Proof
end

