-- ==== Sys2Proof/Laws/Memory.lean ====
section
/-! SUPPORT. Memory and address sets: read after write, and every operation keeps the canonical form. -/

namespace Sys2Proof.Machine

/-! ### Lists from an address up -/

/-- A canonical list from an address up is one from any lower address up. -/
theorem Memory.wfFrom_mono {bound lo lo' : Nat} (h : lo' ≤ lo) : ∀ {m : Memory},
    Memory.wfFrom bound lo m = true → Memory.wfFrom bound lo' m = true
  | [], _ => rfl
  | (k, b) :: m, hm => by
    simp only [Memory.wfFrom, Bool.and_eq_true, decide_eq_true_eq] at hm ⊢
    exact ⟨⟨⟨by omega, hm.1.1.2⟩, hm.1.2⟩, hm.2⟩

/-- Below its first address a canonical list reads as unlisted. -/
theorem Memory.read_below {bound lo a : Nat} (h : a < lo) : ∀ {m : Memory},
    Memory.wfFrom bound lo m = true → Memory.read m a = unlistedByte
  | [], _ => rfl
  | (k, b) :: m, hm => by
    simp only [Memory.wfFrom, Bool.and_eq_true, decide_eq_true_eq] at hm
    simp only [Memory.read, if_neg (show k ≠ a by omega)]
    exact Memory.read_below (by omega) hm.2

/-! ### Read after write -/

/-- The entry a write puts in front, or leaves out, reads as the byte written. -/
theorem Memory.read_cons {bound lo a : Nat} {m : Memory} (b : Byte) (h : a < lo)
    (hm : Memory.wfFrom bound lo m = true) (a' : Nat) :
    Memory.read (Memory.cons a b m) a' = if a' = a then b else Memory.read m a' := by
  unfold Memory.cons
  split
  · split
    · subst_vars; exact Memory.read_below h hm
    · rfl
  · simp only [Memory.read, eq_comm (a := a) (b := a')]

/-- Reading after a write from a canonical list. -/
theorem Memory.read_write_from {bound : Nat} (a : Nat) (b : Byte) (a' : Nat) : ∀ {m : Memory} {lo : Nat},
    Memory.wfFrom bound lo m = true →
      Memory.read (Memory.write m a b) a' = if a' = a then b else Memory.read m a'
  | [], _, _ => Memory.read_cons (bound := bound) (lo := a + 1) b (by omega) rfl a'
  | (k, c) :: m, lo, hm => by
    have hm' := hm
    simp only [Memory.wfFrom, Bool.and_eq_true, decide_eq_true_eq] at hm
    simp only [Memory.write]
    split
    · refine Memory.read_cons (bound := bound) (lo := k) b ‹_› ?_ a'
      simp only [Memory.wfFrom, Bool.and_eq_true, decide_eq_true_eq]
      exact ⟨⟨⟨le_refl _, hm.1.1.2⟩, hm.1.2⟩, hm.2⟩
    · split
      · rename_i e
        subst e
        rw [Memory.read_cons (bound := bound) (lo := a + 1) b (by omega) hm.2 a']
        by_cases e : a' = a
        · simp [e]
        · simp [e, Ne.symm e, Memory.read]
      · simp only [Memory.read, Memory.read_write_from a b a' hm.2]
        split <;> split <;> first | rfl | omega

/-- A read after a write: the byte written at its address, the byte before at every other. -/
theorem Memory.read_write {xlen : Nat} {m : Memory} (hm : Memory.wf xlen m = true) (a : Nat) (b : Byte) (a' : Nat) :
    Memory.read (Memory.write m a b) a' = if a' = a then b else Memory.read m a' :=
  Memory.read_write_from a b a' hm

/-! ### The canonical form is kept -/

/-- An entry in front keeps the form. -/
theorem Memory.wfFrom_cons {bound lo a : Nat} {m : Memory} (b : Byte) (h : lo ≤ a) (ha : a < bound)
    (hm : Memory.wfFrom bound (a + 1) m = true) : Memory.wfFrom bound lo (Memory.cons a b m) = true := by
  unfold Memory.cons
  split
  · exact Memory.wfFrom_mono (by omega) hm
  · simp only [Memory.wfFrom, Bool.and_eq_true, decide_eq_true_eq]
    exact ⟨⟨⟨h, ha⟩, ‹_›⟩, hm⟩

/-- A write keeps the form, from an address up. -/
theorem Memory.wfFrom_write {bound : Nat} (a : Nat) (b : Byte) (ha : a < bound) : ∀ {m : Memory} {lo : Nat}, lo ≤ a →
    Memory.wfFrom bound lo m = true → Memory.wfFrom bound lo (Memory.write m a b) = true
  | [], _, h, _ => Memory.wfFrom_cons b h ha rfl
  | (k, c) :: m, lo, h, hm => by
    simp only [Memory.wfFrom, Bool.and_eq_true, decide_eq_true_eq] at hm
    simp only [Memory.write]
    split
    · refine Memory.wfFrom_cons b h ha ?_
      simp only [Memory.wfFrom, Bool.and_eq_true, decide_eq_true_eq]
      exact ⟨⟨⟨by omega, hm.1.1.2⟩, hm.1.2⟩, hm.2⟩
    · split
      · subst_vars; exact Memory.wfFrom_cons b h ha hm.2
      · simp only [Memory.wfFrom, Bool.and_eq_true, decide_eq_true_eq]
        exact ⟨hm.1, Memory.wfFrom_write a b ha (by omega) hm.2⟩

/-- A write inside the address space keeps the canonical form. -/
theorem Memory.wf_write {xlen : Nat} {m : Memory} (hm : Memory.wf xlen m = true) (a : Nat) (b : Byte)
    (ha : a < 2 ^ xlen) : Memory.wf xlen (Memory.write m a b) = true :=
  Memory.wfFrom_write a b ha (by omega) hm

/-- Writes of a list of bytes keep the canonical form. -/
theorem Memory.wf_foldl {xlen : Nat} (cells : List Host.Cell) : ∀ {m : Memory}, Memory.wf xlen m = true →
    Memory.wf xlen (cells.foldl (fun m c => Memory.write m (c.1 % 2 ^ xlen) c.2) m) = true := by
  induction cells with
  | nil => exact id
  | cons c cs ih => exact fun hm => ih (Memory.wf_write hm _ _ (Nat.mod_lt _ (by positivity)))

/-- A memory made from any bytes has the canonical form. -/
theorem Memory.wf_ofCells (xlen : Nat) (cells : List Host.Cell) : Memory.wf xlen (Memory.ofCells xlen cells) = true :=
  Memory.wf_foldl cells rfl

/-- The memory of `State.reset` has the canonical form. -/
theorem Memory.wf_reset : Memory.wf 32 State.reset.rvl32.mem = true ∧ Memory.wf 16 State.reset.v16.mem = true :=
  ⟨Memory.wf_ofCells 32 _, Memory.wf_ofCells 16 _⟩

/-- Two canonical memories that read alike from an address up are equal. -/
theorem Memory.ext_from {bound : Nat} : ∀ {m m' : Memory} {lo : Nat}, Memory.wfFrom bound lo m = true →
    Memory.wfFrom bound lo m' = true → (∀ a, Memory.read m a = Memory.read m' a) → m = m'
  | [], [], _, _, _, _ => rfl
  | [], (k, b) :: m', _, _, h', e => by
    simp only [Memory.wfFrom, Bool.and_eq_true, decide_eq_true_eq] at h'
    exact absurd (by simpa [Memory.read] using (e k).symm) h'.1.2
  | (k, b) :: m, [], _, h, _, e => by
    simp only [Memory.wfFrom, Bool.and_eq_true, decide_eq_true_eq] at h
    exact absurd (by simpa [Memory.read] using e k) h.1.2
  | (k, b) :: m, (k', b') :: m', lo, h, h', e => by
    simp only [Memory.wfFrom, Bool.and_eq_true, decide_eq_true_eq] at h h'
    have hk : k = k' := by
      rcases Nat.lt_trichotomy k k' with l | l | l
      · have := e k
        rw [Memory.read_below (bound := bound) (lo := k') (m := (k', b') :: m') l
          (by simp [Memory.wfFrom, h'])] at this
        exact absurd (by simpa [Memory.read] using this) h.1.2
      · exact l
      · have := e k'
        rw [Memory.read_below (bound := bound) (lo := k) (m := (k, b) :: m) l (by simp [Memory.wfFrom, h])] at this
        exact absurd (by simpa [Memory.read] using this.symm) h'.1.2
    subst hk
    have hb : b = b' := by simpa [Memory.read] using e k
    subst hb
    rw [Memory.ext_from h.2 h'.2]
    intro a
    by_cases ha : a < k + 1
    · rw [Memory.read_below ha h.2, Memory.read_below ha h'.2]
    · simpa [Memory.read, if_neg (show k ≠ a by omega)] using e a

/-- Two canonical memories that read alike are equal. -/
theorem Memory.ext {xlen : Nat} {m m' : Memory} (h : Memory.wf xlen m = true) (h' : Memory.wf xlen m' = true)
    (e : ∀ a, Memory.read m a = Memory.read m' a) : m = m' :=
  Memory.ext_from h h' e

/-! ### Sets of addresses -/

/-- Adding an address: it and the members before. -/
theorem AddrSet.mem_insert (a x : Nat) : ∀ s : AddrSet, x ∈ AddrSet.insert s a ↔ x = a ∨ x ∈ s
  | [] => by simp [AddrSet.insert]
  | k :: s => by
    simp only [AddrSet.insert]
    split
    · simp
    · split
      · subst_vars; simp
      · simp only [List.mem_cons, AddrSet.mem_insert a x s]; tauto

/-- Adding an address keeps the form, from an address up. -/
theorem AddrSet.wfFrom_insert {bound : Nat} (a : Nat) (ha : a < bound) : ∀ {s : AddrSet} {lo : Nat}, lo ≤ a →
    AddrSet.wfFrom bound lo s = true → AddrSet.wfFrom bound lo (AddrSet.insert s a) = true
  | [], _, h, _ => by simp [AddrSet.insert, AddrSet.wfFrom, h, ha]
  | k :: s, lo, h, hs => by
    have hs' := hs
    simp only [AddrSet.wfFrom, Bool.and_eq_true, decide_eq_true_eq] at hs
    simp only [AddrSet.insert]
    split
    · simp only [AddrSet.wfFrom, Bool.and_eq_true, decide_eq_true_eq]
      exact ⟨⟨h, ha⟩, ⟨by omega, hs.1.2⟩, hs.2⟩
    · split
      · exact hs'
      · simp only [AddrSet.wfFrom, Bool.and_eq_true, decide_eq_true_eq]
        exact ⟨hs.1, AddrSet.wfFrom_insert a ha (by omega) hs.2⟩

/-- Adding an address of the address space keeps the canonical form. -/
theorem AddrSet.wf_insert {xlen : Nat} {s : AddrSet} (hs : AddrSet.wf xlen s = true) (a : Nat) (ha : a < 2 ^ xlen) :
    AddrSet.wf xlen (AddrSet.insert s a) = true :=
  AddrSet.wfFrom_insert a ha (by omega) hs

end Sys2Proof.Machine
end

