-- ==== Sys2Proof/Laws/State.lean ====
section
/-! SUPPORT. What each update of a hart leaves in each field, so that no proof unfolds a record update; and what a
register reads as after each update. -/

namespace Sys2Proof.Machine

variable {n : Nat}

/-! ### jump -/

@[simp] theorem Hart.jump_regs (h : Hart n) (t : BitVec n) :
    (h.jump t).regs = h.regs := rfl

@[simp] theorem Hart.jump_pc (h : Hart n) (t : BitVec n) :
    (h.jump t).pc = t := rfl

@[simp] theorem Hart.jump_mem (h : Hart n) (t : BitVec n) :
    (h.jump t).mem = h.mem := rfl

@[simp] theorem Hart.jump_stored (h : Hart n) (t : BitVec n) :
    (h.jump t).stored = h.stored := rfl

@[simp] theorem Hart.jump_fault (h : Hart n) (t : BitVec n) :
    (h.jump t).fault = h.fault := rfl

@[simp] theorem Hart.jump_platform (h : Hart n) (t : BitVec n) :
    (h.jump t).platform = h.platform := rfl

@[simp] theorem Hart.jump_draws (h : Hart n) (t : BitVec n) :
    (h.jump t).draws = h.draws := rfl

@[simp] theorem Hart.jump_io (h : Hart n) (t : BitVec n) :
    (h.jump t).io = h.io := rfl

/-! ### advance -/

@[simp] theorem Hart.advance_regs (h : Hart n) :
    h.advance.regs = h.regs := rfl

@[simp] theorem Hart.advance_pc (h : Hart n) :
    h.advance.pc = h.nextPc := rfl

@[simp] theorem Hart.advance_mem (h : Hart n) :
    h.advance.mem = h.mem := rfl

@[simp] theorem Hart.advance_stored (h : Hart n) :
    h.advance.stored = h.stored := rfl

@[simp] theorem Hart.advance_fault (h : Hart n) :
    h.advance.fault = h.fault := rfl

@[simp] theorem Hart.advance_platform (h : Hart n) :
    h.advance.platform = h.platform := rfl

@[simp] theorem Hart.advance_draws (h : Hart n) :
    h.advance.draws = h.draws := rfl

@[simp] theorem Hart.advance_io (h : Hart n) :
    h.advance.io = h.io := rfl

/-! ### raise -/

@[simp] theorem Hart.raise_regs (h : Hart n) (r : Fault) :
    (h.raise r).regs = h.regs := rfl

@[simp] theorem Hart.raise_pc (h : Hart n) (r : Fault) :
    (h.raise r).pc = h.pc := rfl

@[simp] theorem Hart.raise_mem (h : Hart n) (r : Fault) :
    (h.raise r).mem = h.mem := rfl

@[simp] theorem Hart.raise_stored (h : Hart n) (r : Fault) :
    (h.raise r).stored = h.stored := rfl

@[simp] theorem Hart.raise_fault (h : Hart n) (r : Fault) :
    (h.raise r).fault = some r := rfl

@[simp] theorem Hart.raise_platform (h : Hart n) (r : Fault) :
    (h.raise r).platform = h.platform := rfl

@[simp] theorem Hart.raise_draws (h : Hart n) (r : Fault) :
    (h.raise r).draws = h.draws := rfl

@[simp] theorem Hart.raise_io (h : Hart n) (r : Fault) :
    (h.raise r).io = h.io := rfl

/-! ### setX -/

@[simp] theorem Hart.setX_pc (h : Hart n) (r : Fin n) (v : BitVec n) :
    (h.setX r v).pc = h.pc := by
  unfold Hart.setX; split <;> rfl

@[simp] theorem Hart.setX_mem (h : Hart n) (r : Fin n) (v : BitVec n) :
    (h.setX r v).mem = h.mem := by
  unfold Hart.setX; split <;> rfl

@[simp] theorem Hart.setX_stored (h : Hart n) (r : Fin n) (v : BitVec n) :
    (h.setX r v).stored = h.stored := by
  unfold Hart.setX; split <;> rfl

@[simp] theorem Hart.setX_fault (h : Hart n) (r : Fin n) (v : BitVec n) :
    (h.setX r v).fault = h.fault := by
  unfold Hart.setX; split <;> rfl

@[simp] theorem Hart.setX_platform (h : Hart n) (r : Fin n) (v : BitVec n) :
    (h.setX r v).platform = h.platform := by
  unfold Hart.setX; split <;> rfl

@[simp] theorem Hart.setX_draws (h : Hart n) (r : Fin n) (v : BitVec n) :
    (h.setX r v).draws = h.draws := by
  unfold Hart.setX; split <;> rfl

@[simp] theorem Hart.setX_io (h : Hart n) (r : Fin n) (v : BitVec n) :
    (h.setX r v).io = h.io := by
  unfold Hart.setX; split <;> rfl

@[simp] theorem Hart.setX_nextPc (h : Hart n) (r : Fin n) (v : BitVec n) : (h.setX r v).nextPc = h.nextPc := by
  simp [Hart.nextPc]

/-! ### writeNext -/

@[simp] theorem Hart.writeNext_regs (h : Hart n) (r : Fin n) (v : BitVec n) :
    (h.writeNext r v).regs = (h.setX r v).regs := rfl

@[simp] theorem Hart.writeNext_pc (h : Hart n) (r : Fin n) (v : BitVec n) :
    (h.writeNext r v).pc = h.nextPc := by
  simp [Hart.writeNext]

@[simp] theorem Hart.writeNext_mem (h : Hart n) (r : Fin n) (v : BitVec n) :
    (h.writeNext r v).mem = h.mem := by
  simp [Hart.writeNext]

@[simp] theorem Hart.writeNext_stored (h : Hart n) (r : Fin n) (v : BitVec n) :
    (h.writeNext r v).stored = h.stored := by
  simp [Hart.writeNext]

@[simp] theorem Hart.writeNext_fault (h : Hart n) (r : Fin n) (v : BitVec n) :
    (h.writeNext r v).fault = h.fault := by
  simp [Hart.writeNext]

@[simp] theorem Hart.writeNext_platform (h : Hart n) (r : Fin n) (v : BitVec n) :
    (h.writeNext r v).platform = h.platform := by
  simp [Hart.writeNext]

@[simp] theorem Hart.writeNext_draws (h : Hart n) (r : Fin n) (v : BitVec n) :
    (h.writeNext r v).draws = h.draws := by
  simp [Hart.writeNext]

@[simp] theorem Hart.writeNext_io (h : Hart n) (r : Fin n) (v : BitVec n) :
    (h.writeNext r v).io = h.io := by
  simp [Hart.writeNext]

/-! ### link -/

@[simp] theorem Hart.link_regs (h : Hart n) (r : Fin n) (t : BitVec n) :
    (h.link r t).regs = (h.setX r h.nextPc).regs := rfl

@[simp] theorem Hart.link_pc (h : Hart n) (r : Fin n) (t : BitVec n) :
    (h.link r t).pc = t := rfl

@[simp] theorem Hart.link_mem (h : Hart n) (r : Fin n) (t : BitVec n) :
    (h.link r t).mem = h.mem := by
  simp [Hart.link]

@[simp] theorem Hart.link_stored (h : Hart n) (r : Fin n) (t : BitVec n) :
    (h.link r t).stored = h.stored := by
  simp [Hart.link]

@[simp] theorem Hart.link_fault (h : Hart n) (r : Fin n) (t : BitVec n) :
    (h.link r t).fault = h.fault := by
  simp [Hart.link]

@[simp] theorem Hart.link_platform (h : Hart n) (r : Fin n) (t : BitVec n) :
    (h.link r t).platform = h.platform := by
  simp [Hart.link]

@[simp] theorem Hart.link_draws (h : Hart n) (r : Fin n) (t : BitVec n) :
    (h.link r t).draws = h.draws := by
  simp [Hart.link]

@[simp] theorem Hart.link_io (h : Hart n) (r : Fin n) (t : BitVec n) :
    (h.link r t).io = h.io := by
  simp [Hart.link]

/-! ### drawNext -/

@[simp] theorem Hart.drawNext_regs (h : Hart n) (r : Fin n) :
    (h.drawNext r).regs = (h.setX r (Config.unspecified n h.draws n)).regs := by
  simp only [Hart.drawNext, Hart.writeNext_regs, Hart.setX]; split <;> rfl

@[simp] theorem Hart.drawNext_pc (h : Hart n) (r : Fin n) :
    (h.drawNext r).pc = h.nextPc := by
  simp [Hart.drawNext, Hart.nextPc]

@[simp] theorem Hart.drawNext_mem (h : Hart n) (r : Fin n) :
    (h.drawNext r).mem = h.mem := by
  simp [Hart.drawNext]

@[simp] theorem Hart.drawNext_stored (h : Hart n) (r : Fin n) :
    (h.drawNext r).stored = h.stored := by
  simp [Hart.drawNext]

@[simp] theorem Hart.drawNext_fault (h : Hart n) (r : Fin n) :
    (h.drawNext r).fault = h.fault := by
  simp [Hart.drawNext]

@[simp] theorem Hart.drawNext_platform (h : Hart n) (r : Fin n) :
    (h.drawNext r).platform = h.platform := by
  simp [Hart.drawNext]

@[simp] theorem Hart.drawNext_draws (h : Hart n) (r : Fin n) :
    (h.drawNext r).draws = h.draws + 1 := by
  simp [Hart.drawNext]

@[simp] theorem Hart.drawNext_io (h : Hart n) (r : Fin n) :
    (h.drawNext r).io = h.io := by
  simp [Hart.drawNext]

/-! ### noteStored -/

@[simp] theorem Hart.noteStored_regs (h : Hart n) (a : Nat) :
    (h.noteStored a).regs = h.regs := by
  unfold Hart.noteStored; split <;> rfl

@[simp] theorem Hart.noteStored_pc (h : Hart n) (a : Nat) :
    (h.noteStored a).pc = h.pc := by
  unfold Hart.noteStored; split <;> rfl

@[simp] theorem Hart.noteStored_mem (h : Hart n) (a : Nat) :
    (h.noteStored a).mem = h.mem := by
  unfold Hart.noteStored; split <;> rfl

theorem Hart.noteStored_stored (h : Hart n) (a : Nat) :
    (h.noteStored a).stored = if h.platform.smc = .refuse then AddrSet.insert h.stored a else h.stored := by
  unfold Hart.noteStored; split <;> simp_all

@[simp] theorem Hart.noteStored_fault (h : Hart n) (a : Nat) :
    (h.noteStored a).fault = h.fault := by
  unfold Hart.noteStored; split <;> rfl

@[simp] theorem Hart.noteStored_platform (h : Hart n) (a : Nat) :
    (h.noteStored a).platform = h.platform := by
  unfold Hart.noteStored; split <;> rfl

@[simp] theorem Hart.noteStored_draws (h : Hart n) (a : Nat) :
    (h.noteStored a).draws = h.draws := by
  unfold Hart.noteStored; split <;> rfl

@[simp] theorem Hart.noteStored_io (h : Hart n) (a : Nat) :
    (h.noteStored a).io = h.io := by
  unfold Hart.noteStored; split <;> rfl

/-! ### writeByte -/

@[simp] theorem Hart.writeByte_regs (h : Hart n) (a : Nat) (b : Byte) :
    (h.writeByte a b).regs = h.regs := by
  unfold Hart.writeByte; split <;> simp

@[simp] theorem Hart.writeByte_pc (h : Hart n) (a : Nat) (b : Byte) :
    (h.writeByte a b).pc = h.pc := by
  unfold Hart.writeByte; split <;> simp

@[simp] theorem Hart.writeByte_fault (h : Hart n) (a : Nat) (b : Byte) :
    (h.writeByte a b).fault = h.fault := by
  unfold Hart.writeByte; split <;> simp

@[simp] theorem Hart.writeByte_platform (h : Hart n) (a : Nat) (b : Byte) :
    (h.writeByte a b).platform = h.platform := by
  unfold Hart.writeByte; split <;> simp

@[simp] theorem Hart.writeByte_draws (h : Hart n) (a : Nat) (b : Byte) :
    (h.writeByte a b).draws = h.draws := by
  unfold Hart.writeByte; split <;> simp

@[simp] theorem Hart.writeByte_io (h : Hart n) (a : Nat) (b : Byte) :
    (h.writeByte a b).io = h.io := by
  unfold Hart.writeByte; split <;> simp

theorem Hart.writeByte_mem (h : Hart n) (a : Nat) (b : Byte) :
    (h.writeByte a b).mem = if h.platform.isDevice a then h.mem else Memory.write h.mem a b := by
  unfold Hart.writeByte; split <;> simp_all

theorem Hart.writeByte_stored (h : Hart n) (a : Nat) (b : Byte) :
    (h.writeByte a b).stored = if h.platform.smc = .refuse then AddrSet.insert h.stored a else h.stored := by
  unfold Hart.writeByte; split <;> simp [Hart.noteStored_stored]

/-! ### readByte -/

@[simp] theorem Hart.readByte_regs (h : Hart n) (a : Nat) :
    (h.readByte a).2.regs = h.regs := by
  unfold Hart.readByte; split <;> rfl

@[simp] theorem Hart.readByte_pc (h : Hart n) (a : Nat) :
    (h.readByte a).2.pc = h.pc := by
  unfold Hart.readByte; split <;> rfl

@[simp] theorem Hart.readByte_mem (h : Hart n) (a : Nat) :
    (h.readByte a).2.mem = h.mem := by
  unfold Hart.readByte; split <;> rfl

@[simp] theorem Hart.readByte_stored (h : Hart n) (a : Nat) :
    (h.readByte a).2.stored = h.stored := by
  unfold Hart.readByte; split <;> rfl

@[simp] theorem Hart.readByte_fault (h : Hart n) (a : Nat) :
    (h.readByte a).2.fault = h.fault := by
  unfold Hart.readByte; split <;> rfl

@[simp] theorem Hart.readByte_platform (h : Hart n) (a : Nat) :
    (h.readByte a).2.platform = h.platform := by
  unfold Hart.readByte; split <;> rfl

@[simp] theorem Hart.readByte_io (h : Hart n) (a : Nat) :
    (h.readByte a).2.io = h.io := by
  unfold Hart.readByte; split <;> rfl

/-! ### noteIo -/

@[simp] theorem Hart.noteIo_regs (h : Hart n) (addr : BitVec n) (width : Nat) (e : IoEvent) :
    (h.noteIo addr width e).regs = h.regs := by
  unfold Hart.noteIo; split <;> rfl

@[simp] theorem Hart.noteIo_pc (h : Hart n) (addr : BitVec n) (width : Nat) (e : IoEvent) :
    (h.noteIo addr width e).pc = h.pc := by
  unfold Hart.noteIo; split <;> rfl

@[simp] theorem Hart.noteIo_mem (h : Hart n) (addr : BitVec n) (width : Nat) (e : IoEvent) :
    (h.noteIo addr width e).mem = h.mem := by
  unfold Hart.noteIo; split <;> rfl

@[simp] theorem Hart.noteIo_stored (h : Hart n) (addr : BitVec n) (width : Nat) (e : IoEvent) :
    (h.noteIo addr width e).stored = h.stored := by
  unfold Hart.noteIo; split <;> rfl

@[simp] theorem Hart.noteIo_fault (h : Hart n) (addr : BitVec n) (width : Nat) (e : IoEvent) :
    (h.noteIo addr width e).fault = h.fault := by
  unfold Hart.noteIo; split <;> rfl

@[simp] theorem Hart.noteIo_platform (h : Hart n) (addr : BitVec n) (width : Nat) (e : IoEvent) :
    (h.noteIo addr width e).platform = h.platform := by
  unfold Hart.noteIo; split <;> rfl

@[simp] theorem Hart.noteIo_draws (h : Hart n) (addr : BitVec n) (width : Nat) (e : IoEvent) :
    (h.noteIo addr width e).draws = h.draws := by
  unfold Hart.noteIo; split <;> rfl

/-! ### Registers read after an update -/

@[simp] theorem Hart.x_zero (h : Hart n) (r : Fin n) (hr : r.val = 0) : h.x r = 0#n := by
  simp [Hart.x, hr]

/-- A register that is not x0 reads as its cell. -/
theorem Hart.x_of_ne (h : Hart n) (r : Fin n) (hr : r.val ≠ 0) : h.x r = h.regs[r.val] := by
  simp [Hart.x, hr]

/-- Equal cells read alike. -/
theorem Hart.x_congr {h h' : Hart n} (e : h'.regs = h.regs) (r : Fin n) : h'.x r = h.x r := by
  simp [Hart.x, e]

@[simp] theorem Hart.x_setX_self (h : Hart n) (r : Fin n) (v : BitVec n) (hr : r.val ≠ 0) :
    (h.setX r v).x r = v := by
  simp [Hart.x, Hart.setX, hr]

theorem Hart.x_setX_of_ne (h : Hart n) (r q : Fin n) (v : BitVec n) (hq : r ≠ q) : (h.setX r v).x q = h.x q := by
  have : r.val ≠ q.val := fun e => hq (Fin.ext e)
  by_cases hr : r.val = 0
  · simp [Hart.setX, hr]
  · simp [Hart.x, Hart.setX, hr, this]

/-- A register write as a whole: the register named reads as the value, every other as before, x0 as zero. -/
theorem Hart.x_setX (h : Hart n) (r q : Fin n) (v : BitVec n) :
    (h.setX r v).x q = if q = r ∧ r.val ≠ 0 then v else h.x q := by
  by_cases e : r = q
  · subst e
    by_cases hr : r.val = 0
    · simp [Hart.setX, hr]
    · simp [hr]
  · rw [Hart.x_setX_of_ne h r q v e, if_neg]
    rintro ⟨rfl, -⟩
    exact e rfl

@[simp] theorem Hart.x_jump (h : Hart n) (t : BitVec n) (r : Fin n) : (h.jump t).x r = h.x r := rfl

@[simp] theorem Hart.x_advance (h : Hart n) (r : Fin n) : h.advance.x r = h.x r := rfl

@[simp] theorem Hart.x_raise (h : Hart n) (f : Fault) (r : Fin n) : (h.raise f).x r = h.x r := rfl

@[simp] theorem Hart.x_writeNext (h : Hart n) (r q : Fin n) (v : BitVec n) :
    (h.writeNext r v).x q = (h.setX r v).x q := rfl

@[simp] theorem Hart.x_link (h : Hart n) (r q : Fin n) (t : BitVec n) :
    (h.link r t).x q = (h.setX r h.nextPc).x q := rfl

@[simp] theorem Hart.x_drawNext (h : Hart n) (r q : Fin n) :
    (h.drawNext r).x q = (h.setX r (Config.unspecified n h.draws n)).x q :=
  Hart.x_congr (by simp) q

@[simp] theorem Hart.x_noteStored (h : Hart n) (a : Nat) (r : Fin n) : (h.noteStored a).x r = h.x r :=
  Hart.x_congr (by simp) r

@[simp] theorem Hart.x_writeByte (h : Hart n) (a : Nat) (b : Byte) (r : Fin n) : (h.writeByte a b).x r = h.x r :=
  Hart.x_congr (by simp) r

/-- The x0 cell is never written. -/
theorem Hart.setX_cell_zero (h : Hart n) (r : Fin n) (v : BitVec n) :
    (h.setX r v).regs.toList.head? = h.regs.toList.head? := by
  unfold Hart.setX
  split
  · rfl
  · rename_i hr
    have hn : 0 < n := by omega
    simp [List.head?_eq_getElem?, hr]

/-! ### The two harts of a state -/

/-- An RVL32 result answers a next state that differs in the RVL32 hart alone. -/
theorem State.next32_eq (s : State) (h : Hart 32) : s.next32 h = .next { s with rvl32 := h } := rfl

/-- A V16 result answers a next state that differs in the V16 hart alone. -/
theorem State.next16_eq (s : State) (h : Hart 16) : s.next16 h = .next { s with v16 := h } := rfl

@[simp] theorem ilen_32 : ilen 32 = 4 := rfl

@[simp] theorem ilen_16 : ilen 16 = 2 := rfl

@[simp] theorem Hart.nextPc_32 (h : Hart 32) : h.nextPc = h.pc + 4#32 := rfl

@[simp] theorem Hart.nextPc_16 (h : Hart 16) : h.nextPc = h.pc + 2#16 := rfl

end Sys2Proof.Machine
end

