-- ==== Sys2Proof/Laws/Ops.lean ====
section
/-! SUPPORT. For each shared operation, once, all it can do: what its callers' proofs cite instead of unfolding it. -/

namespace Sys2Proof.Machine

variable {n : Nat}

/-! ### Jumps -/

/-- A JALR to an aligned target links and jumps. -/
theorem Hart.linkAligned_aligned (h : Hart n) (rd : Fin n) (t : BitVec n) (ht : t.toNat % ilen n = 0) :
    h.linkAligned rd t = h.link rd t := by
  simp [Hart.linkAligned, ht]

/-- A JALR to any other target faults. -/
theorem Hart.linkAligned_misaligned (h : Hart n) (rd : Fin n) (t : BitVec n) (ht : t.toNat % ilen n ≠ 0) :
    h.linkAligned rd t = h.raise (.misalignedFetch t.toNat) := by
  simp [Hart.linkAligned, ht]

/-! ### The bytes of an access -/

/-- Byte `k` of an access at `addr + 1` is byte `k + 1` of one at `addr`. -/
theorem addr_succ (addr : BitVec n) (k : Nat) : addr + 1#n + BitVec.ofNat n k = addr + BitVec.ofNat n (k + 1) := by
  rw [BitVec.add_assoc, ← BitVec.ofNat_add, Nat.add_comm 1 k]

/-- The bytes touched are the first one and those of the rest. -/
theorem touched_succ (addr : BitVec n) (k x : Nat) :
    touched addr (k + 1) x ↔ x = addr.toNat ∨ touched (addr + 1#n) k x := by
  constructor
  · rintro ⟨j, hj, rfl⟩
    rcases j with _ | j
    · exact .inl (by simp)
    · exact .inr ⟨j, by omega, by rw [addr_succ]⟩
  · rintro (rfl | ⟨j, hj, rfl⟩)
    · exact ⟨0, by omega, by simp⟩
    · exact ⟨j + 1, by omega, by rw [addr_succ]⟩

/-- The addresses listed for an access are those it touches. -/
theorem mem_byteAddrs (x : Nat) : ∀ (k : Nat) (addr : BitVec n), x ∈ byteAddrs addr k ↔ touched addr k x
  | 0, addr => by simp [byteAddrs, touched]
  | k + 1, addr => by rw [byteAddrs, List.mem_cons, mem_byteAddrs x k, touched_succ]

@[simp] theorem Hart.deviceAt_zero (h : Hart n) (addr : BitVec n) :
    h.deviceAt addr 0 = h.platform.isDevice addr.toNat := by
  simp [Hart.deviceAt]

theorem Hart.deviceAt_succ (h : Hart n) (addr : BitVec n) (k : Nat) :
    h.deviceAt addr (k + 1) = h.deviceAt (addr + 1#n) k := by
  rw [Hart.deviceAt, Hart.deviceAt, addr_succ]

/-- Whether a byte is a device's depends on the platform alone. -/
theorem Hart.deviceAt_congr {h h' : Hart n} (e : h'.platform = h.platform) : h'.deviceAt = h.deviceAt := by
  funext addr k
  rw [Hart.deviceAt, Hart.deviceAt, e]

theorem Hart.deviceBytes_succ (h : Hart n) (addr : BitVec n) (k : Nat) :
    h.deviceBytes addr (k + 1) =
      (if h.platform.isDevice addr.toNat then 1 else 0) + h.deviceBytes (addr + 1#n) k := by
  simp only [Hart.deviceBytes, List.range_succ_eq_map, List.countP_cons, List.countP_map, Hart.deviceAt_zero]
  rw [Nat.add_comm]
  congr 2
  funext j
  exact Hart.deviceAt_succ h addr j

/-- An access touches a device exactly when one of its bytes is a device's (20_memory.md R59). -/
theorem Hart.touchesDevice_iff (h : Hart n) (addr : BitVec n) (width : Nat) :
    h.touchesDevice addr width = true ↔ ¬ h.OrdinaryAt addr width := by
  simp only [Hart.touchesDevice, List.any_eq_true, mem_byteAddrs, touched, Hart.OrdinaryAt, not_forall,
    Bool.not_eq_false]
  constructor
  · rintro ⟨x, ⟨k, hk, rfl⟩, hd⟩
    exact ⟨k, hk, hd⟩
  · rintro ⟨k, hk, hd⟩
    exact ⟨_, ⟨k, hk, rfl⟩, hd⟩

/-- No byte of ordinary memory is a device's. -/
theorem Hart.OrdinaryAt.deviceAt {h : Hart n} {addr : BitVec n} {width : Nat} (ho : h.OrdinaryAt addr width) {k : Nat}
    (hk : k < width) : h.deviceAt addr k = false := ho k hk

/-- Ordinary memory has no device bytes. -/
theorem Hart.OrdinaryAt.deviceBytes {h : Hart n} {addr : BitVec n} {width : Nat} (ho : h.OrdinaryAt addr width) {k : Nat}
    (hk : k ≤ width) : h.deviceBytes addr k = 0 := by
  rw [Hart.deviceBytes, List.countP_eq_zero]
  intro j hj
  simp [ho.deviceAt (show j < width by simp at hj; omega)]

/-- A byte of ordinary memory is seen as it stands there. -/
theorem Hart.OrdinaryAt.byteSeen {h : Hart n} {addr : BitVec n} {width : Nat} (ho : h.OrdinaryAt addr width) {k : Nat}
    (hk : k < width) : h.byteSeen addr k = h.byteAt addr k := by
  simp [Hart.byteSeen, ho.deviceAt hk]

/-- Byte `k + 1` of a value is byte `k` of the value shifted down by a byte. -/
theorem extractByte_shift (v : BitVec n) (k : Nat) :
    v.extractLsb' (8 * (k + 1)) 8 = (v >>> 8).extractLsb' (8 * k) 8 := by
  apply BitVec.eq_of_getLsbD_eq
  intro i hi
  simp only [BitVec.getLsbD_extractLsb', BitVec.getLsbD_ushiftRight]
  congr 2
  omega

theorem Hart.splitReads_succ (h : Hart n) (addr : BitVec n) (k : Nat) :
    h.splitReads addr (k + 1) = h.splitReads (addr + 1#n) k ++
      if h.platform.isDevice addr.toNat then [.read addr.toNat 1] else [] := by
  simp only [Hart.splitReads, List.range_succ_eq_map, List.filter_cons, List.filter_map, Hart.deviceAt_zero,
    show h.deviceAt addr ∘ Nat.succ = h.deviceAt (addr + 1#n) from funext fun j => Hart.deviceAt_succ h addr j]
  split <;> simp [Function.comp_def, addr_succ]

theorem Hart.splitWrites_succ (h : Hart n) (v addr : BitVec n) (k : Nat) :
    h.splitWrites v addr (k + 1) = h.splitWrites (v >>> 8) (addr + 1#n) k ++
      if h.platform.isDevice addr.toNat then [.write addr.toNat [v.extractLsb' 0 8]] else [] := by
  simp only [Hart.splitWrites, List.range_succ_eq_map, List.filter_cons, List.filter_map, Hart.deviceAt_zero,
    show h.deviceAt addr ∘ Nat.succ = h.deviceAt (addr + 1#n) from funext fun j => Hart.deviceAt_succ h addr j]
  split <;> simp [Function.comp_def, addr_succ, extractByte_shift]

theorem Hart.splitWrites_congr {h h' : Hart n} (e : h'.platform = h.platform) (v addr : BitVec n) (k : Nat) :
    h'.splitWrites v addr k = h.splitWrites v addr k := by
  rw [Hart.splitWrites, Hart.splitWrites, Hart.deviceAt_congr e]

/-- A split access to ordinary memory hands nothing over. -/
theorem Hart.OrdinaryAt.splitReads {h : Hart n} {addr : BitVec n} {width : Nat} (ho : h.OrdinaryAt addr width) :
    h.splitReads addr width = [] := by
  rw [Hart.splitReads, List.filter_eq_nil_iff.2 fun k hk => by simp [ho.deviceAt (show k < width by simpa using hk)]]
  rfl

/-- The same of a split write. -/
theorem Hart.OrdinaryAt.splitWrites {h : Hart n} {addr : BitVec n} {width : Nat} (ho : h.OrdinaryAt addr width)
    (v : BitVec n) : h.splitWrites v addr width = [] := by
  rw [Hart.splitWrites, List.filter_eq_nil_iff.2 fun k hk => by simp [ho.deviceAt (show k < width by simpa using hk)]]
  rfl

/-! ### Reading bytes -/

/-- An access to ordinary memory is not handed to the platform. -/
theorem Hart.noteIo_ordinary (h : Hart n) (addr : BitVec n) (width : Nat) (e : IoEvent) (ho : h.OrdinaryAt addr width) :
    h.noteIo addr width e = h := by
  rw [Hart.noteIo, if_neg (by rw [Hart.touchesDevice_iff]; exact fun c => c ho)]

/-- An access that touches a device is. -/
theorem Hart.noteIo_device (h : Hart n) (addr : BitVec n) (width : Nat) (e : IoEvent)
    (ho : ¬ h.OrdinaryAt addr width) : h.noteIo addr width e = { h with io := e :: h.io } := by
  rw [Hart.noteIo, if_pos ((Hart.touchesDevice_iff h addr width).2 ho)]

/-- All that reading bytes does (20_memory.md R52, R59): the bytes as seen, and one free value drawn for each byte of a
device. -/
theorem Hart.readBytes_eq : ∀ (k : Nat) (h : Hart n) (addr : BitVec n),
    h.readBytes addr k = ((List.range k).map (h.byteSeen addr), { h with draws := h.draws + h.deviceBytes addr k })
  | 0, _, _ => rfl
  | k + 1, h, addr => by
    have h0 : h.byteSeen addr 0 = (h.readByte addr.toNat).1 := by
      simp only [Hart.byteSeen, Hart.deviceAt_zero, Hart.readByte]
      split <;> simp [Hart.deviceBytes, Hart.byteAt]
    have h1 : (h.readByte addr.toNat).2 =
        { h with draws := h.draws + if h.platform.isDevice addr.toNat then 1 else 0 } := by
      unfold Hart.readByte
      split <;> simp_all
    have hs : ∀ j, (h.readByte addr.toNat).2.byteSeen (addr + 1#n) j = h.byteSeen addr (j + 1) := by
      intro j
      rw [h1]
      simp only [Hart.byteSeen, Hart.deviceAt_succ, Hart.deviceBytes_succ, Hart.byteAt, addr_succ, ← Nat.add_assoc]
      rfl
    have hd : h.deviceBytes addr (k + 1) = (if h.platform.isDevice addr.toNat then 1 else 0) +
        (h.readByte addr.toNat).2.deviceBytes (addr + 1#n) k := by
      rw [Hart.deviceBytes_succ, h1]
      rfl
    simp only [Hart.readBytes, Hart.readBytes_eq k, List.range_succ_eq_map, List.map_cons, List.map_map, h0, hd]
    refine Prod.ext ?_ (by simp only [h1, Nat.add_assoc])
    exact congrArg (_ :: ·) (List.map_congr_left fun j _ => hs j)

/-- One access (20_memory.md R58): the bytes as seen, handed to the platform as a whole where it touches a device. -/
theorem Hart.readAccess_eq (h : Hart n) (addr : BitVec n) (width : Nat) :
    h.readAccess addr width = ((List.range width).map (h.byteSeen addr),
      { h.noteIo addr width (.read addr.toNat width) with draws := h.draws + h.deviceBytes addr width }) := by
  rw [Hart.readAccess, Hart.readBytes_eq]
  unfold Hart.noteIo
  split <;> rfl

/-- A single byte of a split read: handed to the platform where it is a device's. -/
theorem Hart.readAccess_one (h : Hart n) (addr : BitVec n) :
    h.readAccess addr 1 = ([h.byteSeen addr 0],
      { h with
        draws := h.draws + if h.platform.isDevice addr.toNat then 1 else 0
        io := if h.platform.isDevice addr.toNat then .read addr.toNat 1 :: h.io else h.io }) := by
  rw [Hart.readAccess_eq]
  simp only [Hart.noteIo, Hart.touchesDevice, byteAddrs, List.any_cons, List.any_nil, Bool.or_false,
    Hart.deviceBytes_succ]
  split <;> rfl

/-- A read split into single bytes (20_memory.md R54): the same bytes, each device byte handed to the platform by
itself. -/
theorem Hart.readSplit_eq : ∀ (k : Nat) (h : Hart n) (addr : BitVec n),
    h.readSplit addr k = ((List.range k).map (h.byteSeen addr),
      { h with draws := h.draws + h.deviceBytes addr k, io := h.splitReads addr k ++ h.io })
  | 0, _, _ => rfl
  | k + 1, h, addr => by
    simp only [Hart.readSplit, Hart.readAccess_one, Hart.readSplit_eq k, List.range_succ_eq_map, List.map_cons,
      List.map_map, List.cons_append, List.nil_append]
    refine Prod.ext (congrArg (_ :: ·) (List.map_congr_left fun j _ => ?_)) ?_
    · simp only [Function.comp, Hart.byteSeen, Hart.deviceAt_succ, Hart.deviceBytes_succ, Hart.byteAt,
        Nat.succ_eq_add_one, addr_succ, ← Nat.add_assoc]
      rfl
    · simp only [Hart.deviceBytes_succ, Hart.splitReads_succ, ← Nat.add_assoc, List.append_assoc]
      split <;> rfl

/-- What a data read does to the hart: it draws and is noted, and changes nothing else. -/
theorem Hart.readData_eq (h : Hart n) (addr : BitVec n) (width : Nat) : ∃ io,
    h.readData addr width = ((List.range width).map (h.byteSeen addr),
      { h with draws := h.draws + h.deviceBytes addr width, io := io }) := by
  unfold Hart.readData
  split
  · rw [Hart.readAccess_eq]
    unfold Hart.noteIo
    split <;> exact ⟨_, rfl⟩
  · exact ⟨_, Hart.readSplit_eq _ _ _⟩

/-- A read of ordinary memory: `M[addr]`, `M[addr+1]`, and so on, and no change at all (20_memory.md R52, R59). -/
theorem Hart.readAccess_ordinary (h : Hart n) (addr : BitVec n) (width : Nat) (ho : h.OrdinaryAt addr width) :
    h.readAccess addr width = ((List.range width).map (h.byteAt addr), h) := by
  rw [Hart.readAccess_eq, Hart.noteIo_ordinary h _ _ _ ho, ho.deviceBytes (le_refl _)]
  congr 1
  exact List.map_congr_left fun j hj => ho.byteSeen (by simpa using hj)

/-- The same however the read is made. -/
theorem Hart.readData_ordinary (h : Hart n) (addr : BitVec n) (width : Nat) (ho : h.OrdinaryAt addr width) :
    h.readData addr width = ((List.range width).map (h.byteAt addr), h) := by
  unfold Hart.readData
  split
  · exact Hart.readAccess_ordinary h addr width ho
  · rw [Hart.readSplit_eq, ho.deviceBytes (le_refl _), ho.splitReads]
    congr 1
    exact List.map_congr_left fun j hj => ho.byteSeen (by simpa using hj)

/-! ### Writing bytes -/

/-- Storing bytes changes no register, not the pc, no fault, no parameter, draws nothing and hands nothing over. -/
theorem Hart.writeBytes_frame : ∀ (bs : List Byte) (h : Hart n) (addr : BitVec n),
    (h.writeBytes addr bs).regs = h.regs ∧ (h.writeBytes addr bs).pc = h.pc ∧
      (h.writeBytes addr bs).fault = h.fault ∧ (h.writeBytes addr bs).platform = h.platform ∧
        (h.writeBytes addr bs).draws = h.draws ∧ (h.writeBytes addr bs).io = h.io
  | [], _, _ => ⟨rfl, rfl, rfl, rfl, rfl, rfl⟩
  | b :: bs, h, addr => by simp [Hart.writeBytes, Hart.writeBytes_frame bs]

/-- Storing bytes keeps memory in canonical form. -/
theorem Hart.writeBytes_wf : ∀ (bs : List Byte) (h : Hart n) (addr : BitVec n), Memory.wf n h.mem = true →
    Memory.wf n (h.writeBytes addr bs).mem = true
  | [], _, _, hm => hm
  | b :: bs, h, addr, hm => by
    refine Hart.writeBytes_wf bs _ _ ?_
    rw [Hart.writeByte_mem]
    split
    · exact hm
    · exact Memory.wf_write hm _ _ addr.isLt

/-- Storing bytes keeps `stored` in canonical form. -/
theorem Hart.writeBytes_stored_wf : ∀ (bs : List Byte) (h : Hart n) (addr : BitVec n),
    AddrSet.wf n h.stored = true → AddrSet.wf n (h.writeBytes addr bs).stored = true
  | [], _, _, hm => hm
  | b :: bs, h, addr, hm => by
    refine Hart.writeBytes_stored_wf bs _ _ ?_
    rw [Hart.writeByte_stored]
    split
    · exact AddrSet.wf_insert hm _ addr.isLt
    · exact hm

/-- Under `SMC_POLICY = coherent` a store records nothing (10_state.md R32 (c)). -/
theorem Hart.writeBytes_stored_coherent : ∀ (bs : List Byte) (h : Hart n) (addr : BitVec n),
    h.platform.smc = .coherent → (h.writeBytes addr bs).stored = h.stored
  | [], _, _, _ => rfl
  | b :: bs, h, addr, hc => by
    rw [Hart.writeBytes, Hart.writeBytes_stored_coherent bs _ _ (by simp [hc]), Hart.writeByte_stored]
    simp [hc]

/-- Under `SMC_POLICY = refuse` exactly the addresses stored to join `stored` (20_memory.md R62). -/
theorem Hart.writeBytes_stored_refuse (x : Nat) : ∀ (bs : List Byte) (h : Hart n) (addr : BitVec n),
    h.platform.smc = .refuse → (x ∈ (h.writeBytes addr bs).stored ↔ touched addr bs.length x ∨ x ∈ h.stored)
  | [], h, addr, _ => by simp [Hart.writeBytes, touched]
  | b :: bs, h, addr, hr => by
    rw [Hart.writeBytes, Hart.writeBytes_stored_refuse x bs _ _ (by simp [hr]), Hart.writeByte_stored, if_pos hr,
      AddrSet.mem_insert, List.length_cons, touched_succ]
    tauto

/-- One byte stored keeps memory in canonical form. -/
theorem Hart.writeByte_wf (h : Hart n) (addr : BitVec n) (b : Byte) (hm : Memory.wf n h.mem = true) :
    Memory.wf n (h.writeByte addr.toNat b).mem = true := by
  rw [Hart.writeByte_mem]
  split
  · exact hm
  · exact Memory.wf_write hm _ _ addr.isLt

/-- A byte outside those stored to reads as before (20_memory.md R52). -/
theorem Hart.writeBytes_read_other : ∀ (bs : List Byte) (h : Hart n) (addr : BitVec n) (a : Nat),
    Memory.wf n h.mem = true → ¬ touched addr bs.length a →
      Memory.read (h.writeBytes addr bs).mem a = Memory.read h.mem a
  | [], _, _, _, _, _ => rfl
  | b :: bs, h, addr, a, hm, ht => by
    rw [List.length_cons, touched_succ, not_or] at ht
    rw [Hart.writeBytes, Hart.writeBytes_read_other bs _ _ a (h.writeByte_wf addr b hm) ht.2, Hart.writeByte_mem]
    split
    · rfl
    · rw [Memory.read_write hm, if_neg ht.1]

/-- A byte stored to reads as the byte stored, at a device's address as before (20_memory.md R52, 10_state.md R42); the
bytes of one access are fewer than the address space's. -/
theorem Hart.writeBytes_read_self : ∀ (bs : List Byte) (h : Hart n) (addr : BitVec n) (j : Nat) (hj : j < bs.length),
    Memory.wf n h.mem = true → bs.length ≤ 2 ^ n →
      (h.writeBytes addr bs).byteAt addr j = if h.deviceAt addr j then h.byteAt addr j else bs[j]
  | b :: bs, h, addr, j, hj, hm, hl => by
    have hw := h.writeByte_wf addr b hm
    rw [List.length_cons] at hj hl
    have first : ¬ touched (addr + 1#n) bs.length addr.toNat := by
      rintro ⟨k, hk, e⟩
      rw [addr_succ, ← BitVec.toNat_eq] at e
      have : BitVec.ofNat n (k + 1) = 0#n := by simpa using e
      have := congrArg BitVec.toNat this
      simp [Nat.mod_eq_of_lt (show k + 1 < 2 ^ n by omega)] at this
    rcases j with _ | j
    · simp only [Hart.byteAt, Hart.writeBytes, Hart.deviceAt_zero, BitVec.add_zero,
        List.getElem_cons_zero]
      rw [Hart.writeBytes_read_other bs _ _ _ hw first, Hart.writeByte_mem]
      split
      · rfl
      · rw [Memory.read_write hm, if_pos rfl]
    · have ih := Hart.writeBytes_read_self bs (h.writeByte addr.toNat b) (addr + 1#n) j (by omega) hw (by omega)
      rw [Hart.byteAt, addr_succ] at ih
      rw [Hart.byteAt, Hart.writeBytes, ih, Hart.deviceAt_succ, List.getElem_cons_succ,
        Hart.deviceAt_congr (Hart.writeByte_platform h _ b)]
      split
      · have : (addr + BitVec.ofNat n (j + 1)).toNat ≠ addr.toNat := by
          rw [← addr_succ]
          exact fun e => first ⟨j, by omega, e.symm⟩
        rw [Hart.byteAt, addr_succ, Hart.byteAt, Hart.writeByte_mem]
        split
        · rfl
        · rw [Memory.read_write hm, if_neg this]
      · rfl

/-- All that storing one byte does. -/
theorem Hart.writeByte_eq (h : Hart n) (a : Nat) (b : Byte) : h.writeByte a b =
    { h with
      mem := if h.platform.isDevice a then h.mem else Memory.write h.mem a b
      stored := if h.platform.smc = .refuse then AddrSet.insert h.stored a else h.stored } := by
  unfold Hart.writeByte Hart.noteStored
  split <;> split <;> simp_all

/-- What storing bytes does, it does whatever was handed to the platform before. -/
theorem Hart.writeBytes_setIo (io : List IoEvent) : ∀ (bs : List Byte) (h : Hart n) (addr : BitVec n),
    { h with io := io }.writeBytes addr bs = { h.writeBytes addr bs with io := io }
  | [], _, _ => rfl
  | b :: bs, h, addr => by
    rw [Hart.writeBytes, Hart.writeBytes, ← Hart.writeBytes_setIo io bs, Hart.writeByte_eq, Hart.writeByte_eq]

/-- One access (20_memory.md R58): the bytes stored, handed to the platform as a whole where it touches a device. -/
theorem Hart.writeAccess_eq (h : Hart n) (addr : BitVec n) (bs : List Byte) :
    h.writeAccess addr bs = { h.writeBytes addr bs with
      io := if h.touchesDevice addr bs.length then .write addr.toNat bs :: h.io else h.io } := by
  rw [Hart.writeAccess, Hart.noteIo]
  split
  · exact Hart.writeBytes_setIo _ bs h addr
  · exact (congrArg (fun io => { h.writeBytes addr bs with io := io })
      (Hart.writeBytes_frame bs h addr).2.2.2.2.2).symm.trans rfl |>.symm

/-- The bytes of a value, one by one. -/
theorem valueBytes_succ (v : BitVec n) (k : Nat) :
    valueBytes v (k + 1) = v.extractLsb' 0 8 :: valueBytes (v >>> 8) k := by
  simp only [valueBytes, List.range_succ_eq_map, List.map_cons, List.map_map]
  exact congrArg (_ :: ·) (List.map_congr_left fun j _ => extractByte_shift v j)

@[simp] theorem valueBytes_length (v : BitVec n) (k : Nat) : (valueBytes v k).length = k := by
  simp [valueBytes]

/-- A write split into single bytes (20_memory.md R54): the same bytes, each device byte handed to the platform by
itself. -/
theorem Hart.writeSplit_eq : ∀ (k : Nat) (v : BitVec n) (h : Hart n) (addr : BitVec n),
    h.writeSplit addr (valueBytes v k) =
      { h.writeBytes addr (valueBytes v k) with io := h.splitWrites v addr k ++ h.io }
  | 0, _, _, _ => rfl
  | k + 1, v, h, addr => by
    have e : h.writeAccess addr [v.extractLsb' 0 8] = { h.writeByte addr.toNat (v.extractLsb' 0 8) with
        io := (if h.platform.isDevice addr.toNat then [.write addr.toNat [v.extractLsb' 0 8]] else []) ++ h.io } := by
      rw [Hart.writeAccess_eq]
      simp only [Hart.touchesDevice, List.length_cons, List.length_nil, byteAddrs, List.any_cons, List.any_nil,
        Bool.or_false, Hart.writeBytes]
      split <;> rfl
    rw [valueBytes_succ, Hart.writeSplit, e, Hart.writeSplit_eq k, Hart.writeBytes_setIo, Hart.writeBytes,
      Hart.splitWrites_succ, List.append_assoc,
      ← Hart.splitWrites_congr (Hart.writeByte_platform h addr.toNat (v.extractLsb' 0 8))]
    rfl

/-- What a data write does to the hart: the bytes are stored, and the write may be handed to the platform. -/
theorem Hart.writeData_eq (h : Hart n) (v addr : BitVec n) (width : Nat) : ∃ io,
    h.writeData addr (valueBytes v width) = { h.writeBytes addr (valueBytes v width) with io := io } := by
  unfold Hart.writeData
  split
  · exact ⟨_, Hart.writeAccess_eq _ _ _⟩
  · exact ⟨_, Hart.writeSplit_eq _ _ _ _⟩

/-- A write to ordinary memory stores its bytes and hands nothing over. -/
theorem Hart.writeData_ordinary (h : Hart n) (v addr : BitVec n) (width : Nat) (ho : h.OrdinaryAt addr width) :
    h.writeData addr (valueBytes v width) = h.writeBytes addr (valueBytes v width) := by
  have io : { h.writeBytes addr (valueBytes v width) with io := h.io } = h.writeBytes addr (valueBytes v width) := by
    rw [← Hart.writeBytes_setIo]
  unfold Hart.writeData
  split
  · rw [Hart.writeAccess_eq, valueBytes_length, if_neg (by rw [Hart.touchesDevice_iff]; exact fun c => c ho), io]
  · rw [Hart.writeSplit_eq, ho.splitWrites, List.nil_append, io]

/-- The bytes a store writes are the low bytes of its value. -/
theorem leBytes_extract (v : BitVec n) (width : Nat) :
    leBytes (v.extractLsb' 0 (8 * width)).toNat width = valueBytes v width := by
  refine List.ext_getElem (by simp) fun k hk _ => ?_
  rw [leBytes_length] at hk
  rw [leBytes_getElem]
  simp only [valueBytes, List.getElem_map, List.getElem_range]
  apply BitVec.eq_of_toNat_eq
  have h256 : (256 : Nat) ^ k = 2 ^ (8 * k) := by rw [pow_mul]; rfl
  have hw : 8 * width = 8 * k + (8 + (8 * width - 8 * k - 8)) := by omega
  simp only [BitVec.toNat_ofNat, BitVec.extractLsb'_toNat, h256, Nat.shiftRight_eq_div_pow, pow_zero, Nat.div_one]
  conv_lhs => rw [hw, pow_add, Nat.mod_mul_right_div_self, pow_add, Nat.mod_mul_right_mod]

/-! ### Data accesses -/

/-- An access that is aligned and valid, or split into bytes that are each valid, has no fault. -/
theorem Hart.checkAccess_ok (h : Hart n) (kind : AccessKind) (addr : BitVec n) (width : Nat)
    (ok : h.AccessOk kind addr width ∨ h.SplitOk kind addr width) : h.checkAccess kind addr width = none := by
  rcases ok with ok | ok
  · simp [Hart.checkAccess, ok.1, ok.2]
  · have split : ∀ (k : Nat) (a : BitVec n), (∀ j, j < k → h.platform.valid kind (a + BitVec.ofNat n j).toNat 1 = true) →
        h.checkBytes kind a k = none := by
      intro k
      induction k with
      | zero => exact fun _ _ => rfl
      | succ k ih =>
        intro a ha
        have h0 : h.platform.valid kind a.toNat 1 = true := by simpa using ha 0 (by omega)
        rw [Hart.checkBytes, if_pos h0]
        exact ih _ fun j hj => by rw [addr_succ]; exact ha (j + 1) (by omega)
    rw [Hart.checkAccess, if_neg ok.2.1, ok.1]
    exact split _ _ ok.2.2

/-- A split access faults at its first byte that is not valid (20_memory.md R54, R55; log 13). -/
theorem Hart.checkBytes_fault (h : Hart n) (kind : AccessKind) : ∀ (width k : Nat) (addr : BitVec n), k < width →
    (∀ j, j < k → h.platform.valid kind (addr + BitVec.ofNat n j).toNat 1 = true) →
    h.platform.valid kind (addr + BitVec.ofNat n k).toNat 1 = false →
      h.checkBytes kind addr width = some (.accessFault (addr + BitVec.ofNat n k).toNat)
  | _ + 1, 0, addr, _, _, hf => by
    simp only [BitVec.add_zero] at hf ⊢
    rw [Hart.checkBytes, if_neg (by simp [hf])]
  | width + 1, k + 1, addr, hk, hv, hf => by
    have h0 : h.platform.valid kind addr.toNat 1 = true := by simpa using hv 0 (by omega)
    rw [Hart.checkBytes, if_pos h0, ← addr_succ addr k]
    exact Hart.checkBytes_fault h kind width k _ (by omega) (fun j hj => by rw [addr_succ]; exact hv _ (by omega))
      (by rw [addr_succ]; exact hf)

/-- A load that may not be made enters the terminal fault and does nothing else. -/
theorem Hart.loadInto_fault (h : Hart n) (rd : Fin n) (addr : BitVec n) (width : Nat)
    (ext : BitVec (8 * width) → BitVec n) (f : Fault) (hf : h.checkAccess .load addr width = some f) :
    h.loadInto rd addr width ext = h.raise f := by
  simp [Hart.loadInto, Hart.load, hf]

/-- A load that may be made reads its bytes, writes `x[rd]` and goes on. -/
theorem Hart.loadInto_ok (h : Hart n) (rd : Fin n) (addr : BitVec n) (width : Nat)
    (ext : BitVec (8 * width) → BitVec n) (hf : h.checkAccess .load addr width = none) :
    h.loadInto rd addr width ext = (h.readData addr width).2.writeNext rd
      (ext (BitVec.ofNat (8 * width) (leNat ((List.range width).map (h.byteSeen addr))))) := by
  obtain ⟨io, e⟩ := h.readData_eq addr width
  simp [Hart.loadInto, Hart.load, hf, e]

/-- A load from ordinary memory: the bytes as memory has them, and nothing but `x[rd]` and the pc changes. -/
theorem Hart.loadInto_ordinary (h : Hart n) (rd : Fin n) (addr : BitVec n) (width : Nat)
    (ext : BitVec (8 * width) → BitVec n) (ok : h.AccessOk .load addr width ∨ h.SplitOk .load addr width)
    (ho : h.OrdinaryAt addr width) :
    h.loadInto rd addr width ext = h.writeNext rd
      (ext (BitVec.ofNat (8 * width) (leNat ((List.range width).map (h.byteAt addr))))) := by
  have e : (List.range width).map (h.byteSeen addr) = (List.range width).map (h.byteAt addr) :=
    List.map_congr_left fun j hj => ho.byteSeen (by simpa using hj)
  rw [Hart.loadInto_ok _ _ _ _ _ (Hart.checkAccess_ok h _ _ _ ok), Hart.readData_ordinary h addr width ho, e]

/-- A store that may not be made enters the terminal fault and does nothing else. -/
theorem Hart.storeFrom_fault (h : Hart n) (v addr : BitVec n) (width : Nat) (f : Fault)
    (hf : h.checkAccess .store addr width = some f) : h.storeFrom v addr width = h.raise f := by
  simp [Hart.storeFrom, Hart.store, hf]

/-- A store that may be made writes the low bytes of the value and goes on. -/
theorem Hart.storeFrom_ok (h : Hart n) (v addr : BitVec n) (width : Nat)
    (hf : h.checkAccess .store addr width = none) :
    h.storeFrom v addr width = (h.writeData addr (valueBytes v width)).advance := by
  simp only [Hart.storeFrom, Hart.store, hf, leBytes_extract]

/-! ### Instruction fetch -/

/-- A fetch that may not be made. -/
theorem Hart.fetch_fault (h : Hart n) (f : Fault) (hf : h.checkFetch = some f) : h.fetch = .error f := by
  simp [Hart.fetch, hf]

/-- A fetch that may be made reads the bytes at the pc, in one access. -/
theorem Hart.fetch_ok (h : Hart n) (hf : h.checkFetch = none) :
    h.fetch = .ok (BitVec.ofNat n (leNat (h.readAccess h.pc (ilen n)).1), (h.readAccess h.pc (ilen n)).2) := by
  simp [Hart.fetch, hf]

/-- A fetch from ordinary memory changes nothing. -/
theorem Hart.fetch_ordinary (h : Hart n) (hf : h.checkFetch = none) (ho : h.OrdinaryAt h.pc (ilen n)) :
    h.fetch = .ok (BitVec.ofNat n (leNat ((List.range (ilen n)).map (h.byteAt h.pc))), h) := by
  rw [Hart.fetch_ok h hf, Hart.readAccess_ordinary _ _ _ ho]

/-! ### CSRs -/

/-- A CSR that does not exist (10_state.md R31). -/
theorem State.csrAccess_absent (s : State) (rd : Reg32) (i : BitVec 6) (new : Word32 → Word32)
    (hc : s.csr i = .absent) :
    s.csrAccess rd i new = .next { s with rvl32 := s.rvl32.raise (.undefinedCsr i.toNat) } := by
  simp [State.csrAccess, hc, State.next32]

/-- A CSR of plain storage (45_misc_mem_system.md R200). -/
theorem State.csrAccess_storage (s : State) (rd : Reg32) (i : BitVec 6) (new : Word32 → Word32) (old : Word32)
    (hc : s.csr i = .storage old) :
    s.csrAccess rd i new = .next { s with
      csrs := s.csrs.set i.toNat (.storage (new old)) i.isLt, rvl32 := s.rvl32.writeNext rd old } := by
  simp [State.csrAccess, hc]

/-- A CSR with functions of the platform's (10_state.md R30, R31): every cell as the write effect leaves it, `x[rd]` the value
read, on to the next instruction, and nothing else. -/
theorem State.csrAccess_supplied (s : State) (rd : Reg32) (i : BitVec 6) (new : Word32 → Word32) (v : Word32)
    (read : CsrExpr) (effect : List (BitVec 6 × CsrExpr)) (hc : s.csr i = .supplied v read effect) :
    ∃ csrs, s.csrAccess rd i new =
        .next { s with csrs := csrs, rvl32 := s.rvl32.writeNext rd (s.csrEval 0#32 read) } ∧
      ∀ d : BitVec 6, csrs[d.toNat] = s.csrAfter (new (s.csrEval 0#32 read)) effect d := by
  refine ⟨_, by rw [State.csrAccess, hc], fun d => ?_⟩
  rw [Vector.getElem_ofFn, BitVec.ofNat_toNat, BitVec.setWidth_eq]

/-- A CSR of which nothing is said: a free value, and both accesses handed to the platform. -/
theorem State.csrAccess_external (s : State) (rd : Reg32) (i : BitVec 6) (new : Word32 → Word32)
    (hc : s.csr i = .external) :
    let old := Config.unspecified 32 s.rvl32.draws 32
    s.csrAccess rd i new = s.next32 (Hart.writeNext { s.rvl32 with
      draws := s.rvl32.draws + 1
      io := .csrWrite i.toNat (new old) :: .csrRead i.toNat :: s.rvl32.io } rd old) := by
  simp [State.csrAccess, hc]

/-- Replacing what a cell holds changes nothing else of it. -/
@[simp] theorem CsrCell.hold_hold (v w : Word32) (c : CsrCell) : CsrCell.hold v (CsrCell.hold w c) = CsrCell.hold v c := by
  cases c <;> rfl

/-- A write effect changes no cell but for the value held. -/
theorem State.hold_csrAfter (s : State) (w v : Word32) (effect : List (BitVec 6 × CsrExpr)) (i : BitVec 6) :
    CsrCell.hold v (s.csrAfter w effect i) = CsrCell.hold v (s.csr i) := by
  unfold State.csrAfter
  split <;> simp

end Sys2Proof.Machine
end

