-- ==== Sys2Proof/Laws/Exec.lean ====
section
/-! SUPPORT. What `exec` can answer, said once: each instruction is one of a few updates of its machine's hart. -/

namespace Sys2Proof.Machine

variable {n : Nat}

/-- The updates of one hart that instructions are made of: a register write, a link and jump, a move of the pc, the terminal
fault, a load, a store of `width` bytes at `addr`, a free value. `rd` is the register the tables say is written, `pcSet`
whether the instruction has a `pc <-` of its own, `span` where the tables say it stores. -/
def Hart.Effect (h h' : Hart n) (rd : Option (Fin n)) (pcSet : Bool) (span : Option (BitVec n × Nat)) : Prop :=
  (∃ f, h' = h.raise f) ∨
  (∃ r v, rd = some r ∧ pcSet = false ∧ span = none ∧ h' = h.writeNext r v) ∨
  (∃ r, rd = some r ∧ pcSet = false ∧ span = none ∧ h' = h.drawNext r) ∨
  (∃ r addr width ext, rd = some r ∧ pcSet = false ∧ span = none ∧ width ∈ [1, 2, n / 8] ∧
    h' = h.loadInto r addr width ext) ∨
  (∃ v addr width, rd = none ∧ pcSet = false ∧ span = some (addr, width) ∧ width ∈ [1, 2, n / 8] ∧
    h' = h.storeFrom v addr width) ∨
  (∃ r t, rd = some r ∧ pcSet = true ∧ span = none ∧ (h.pc.toNat % ilen n = 0 → t.toNat % ilen n = 0) ∧
    h' = h.link r t) ∨
  (∃ t, rd = none ∧ pcSet = true ∧ span = none ∧ (h.pc.toNat % ilen n = 0 → t.toNat % ilen n = 0) ∧ h' = h.jump t)

/-- An offset that is a multiple of 4 keeps a pc aligned. -/
theorem add_offset32_aligned (pc off : Word32) (hp : pc.toNat % 4 = 0) (ho : off.toNat % 4 = 0) :
    (pc + off).toNat % 4 = 0 := by
  rw [BitVec.toNat_add]; omega

/-- An offset that is even keeps a pc even. -/
theorem add_offset16_aligned (pc off : Word16) (hp : pc.toNat % 2 = 0) (ho : off.toNat % 2 = 0) :
    (pc + off).toNat % 2 = 0 := by
  rw [BitVec.toNat_add]; omega

/-- A value shifted left by two is a multiple of 4. -/
theorem shift2_aligned (v : Word32) : (v <<< 2).toNat % 4 = 0 := by
  rw [BitVec.toNat_shiftLeft, Nat.shiftLeft_eq]; omega

/-- A value shifted left by one is even. -/
theorem shift1_aligned (v : Word16) : (v <<< 1).toNat % 2 = 0 := by
  rw [BitVec.toNat_shiftLeft, Nat.shiftLeft_eq]; omega

/-- A JALR links and jumps, or faults. -/
theorem Hart.linkAligned_effect (h : Hart n) (r : Fin n) (t : BitVec n) :
    h.Effect (h.linkAligned r t) (some r) true none := by
  by_cases ht : t.toNat % ilen n = 0
  · rw [Hart.linkAligned_aligned h r t ht]
    exact .inr <| .inr <| .inr <| .inr <| .inr <| .inl ⟨r, t, rfl, rfl, rfl, fun _ => ht, rfl⟩
  · rw [Hart.linkAligned_misaligned h r t ht]
    exact .inl ⟨_, rfl⟩

/-- A branch moves the pc, to an aligned address if it was aligned. -/
theorem Hart.branch_effect (h : Hart 32) (c : Cond) (rd rs1 : Reg32) (imm12 : BitVec 12) :
    h.Effect (h.branch c rd rs1 imm12) none true none := by
  refine .inr <| .inr <| .inr <| .inr <| .inr <| .inr ⟨_, rfl, rfl, rfl, fun hp => ?_, rfl⟩
  split
  · exact add_offset32_aligned _ _ hp (shift2_aligned _)
  · exact add_offset32_aligned _ _ hp rfl

/-- An IFxxx moves the pc, to an aligned address if it was aligned. -/
theorem Hart.ifNext_effect (h : Hart 16) (c : Cond) (rd rs1 : Reg16) :
    h.Effect (h.ifNext c rd rs1) none true none := by
  refine .inr <| .inr <| .inr <| .inr <| .inr <| .inr ⟨_, rfl, rfl, rfl, fun hp => ?_, rfl⟩
  split
  · exact add_offset16_aligned _ _ hp rfl
  · exact add_offset16_aligned _ _ (add_offset16_aligned _ _ hp rfl) rfl

/-- A V16 shift writes its result or a free value. -/
theorem Hart.shiftNext_effect (h : Hart 16) (rd : Reg16) (v : Option Word16) :
    h.Effect (h.shiftNext rd v) (some rd) false none := by
  rcases v with _ | v
  · exact .inr <| .inr <| .inl ⟨rd, rfl, rfl, rfl, rfl⟩
  · exact .inr <| .inl ⟨rd, v, rfl, rfl, rfl, rfl⟩

/-- Every RVL32 instruction but WFI and the CSR instructions is an effect on the RVL32 hart alone. -/
theorem exec_effect32 (i : Instr) (s : State) (hi : i.isa = .rvl32) :
    (∃ h, exec i s = .next { s with rvl32 := h } ∧
      s.rvl32.Effect h (writes32 i) (setsPc i) (storeSpan32 s.rvl32 i)) ∨
    exec i s = .next { s with waiting := true, rvl32 := s.rvl32.advance } ∧ i = .wfi ∨
    ∃ rd c new, exec i s = s.csrAccess rd c new ∧ writes32 i = some rd ∧ setsPc i = false ∧
      storeSpan32 s.rvl32 i = none := by
  cases i <;> first | (simp [Instr.isa] at hi; done) | skip
  case wfi => exact .inr (.inl ⟨rfl, rfl⟩)
  case csrrw rd rs1 c => exact .inr (.inr ⟨rd, c, _, rfl, rfl, rfl, rfl⟩)
  case csrrs rd rs1 c => exact .inr (.inr ⟨rd, c, _, rfl, rfl, rfl, rfl⟩)
  case csrrc rd rs1 c => exact .inr (.inr ⟨rd, c, _, rfl, rfl, rfl, rfl⟩)
  case csrrwi rd _ c => exact .inr (.inr ⟨rd, c, _, rfl, rfl, rfl, rfl⟩)
  case csrrsi rd _ c => exact .inr (.inr ⟨rd, c, _, rfl, rfl, rfl, rfl⟩)
  case csrrci rd _ c => exact .inr (.inr ⟨rd, c, _, rfl, rfl, rfl, rfl⟩)
  all_goals refine .inl ⟨_, rfl, ?_⟩
  all_goals first
    | exact .inl ⟨_, rfl⟩
    | exact .inr (.inl ⟨_, _, rfl, rfl, rfl, rfl⟩)
    | exact .inr (.inr (.inr (.inl ⟨_, _, _, _, rfl, rfl, rfl, by decide, rfl⟩)))
    | exact .inr (.inr (.inr (.inr (.inl ⟨_, _, _, rfl, rfl, rfl, by decide, rfl⟩))))
    | exact Hart.linkAligned_effect _ _ _
    | exact Hart.branch_effect _ _ _ _ _
    | exact .inr (.inr (.inr (.inr (.inr (.inl ⟨_, _, rfl, rfl, rfl,
        fun hp => add_offset32_aligned _ _ hp (shift2_aligned _), rfl⟩)))))

/-- Every V16 instruction is an effect on the V16 hart alone. -/
theorem exec_effect16 (i : Instr) (s : State) (hi : i.isa = .v16) :
    ∃ h, exec i s = .next { s with v16 := h } ∧
      s.v16.Effect h (writes16 i) (setsPc i) (storeSpan16 s.v16 i) := by
  cases i <;> first | (simp [Instr.isa] at hi; done) | skip
  all_goals refine ⟨_, rfl, ?_⟩
  all_goals first
    | exact .inl ⟨_, rfl⟩
    | exact .inr (.inl ⟨_, _, rfl, rfl, rfl, rfl⟩)
    | exact .inr (.inr (.inr (.inl ⟨_, _, _, _, rfl, rfl, rfl, by decide, rfl⟩)))
    | exact .inr (.inr (.inr (.inr (.inl ⟨_, _, _, rfl, rfl, rfl, by decide, rfl⟩))))
    | exact Hart.linkAligned_effect _ _ _
    | exact Hart.ifNext_effect _ _ _ _
    | exact Hart.shiftNext_effect _ _ _
    | exact .inr (.inr (.inr (.inr (.inr (.inl ⟨_, _, rfl, rfl, rfl,
        fun hp => add_offset16_aligned _ _ hp (shift1_aligned _), rfl⟩)))))

end Sys2Proof.Machine
end

