-- ==== Sys2Proof/Laws/Frames.lean ====
section
/-! SUPPORT. The frames of Safety.lean hold of the shared updates: what a result's proof cites, once its value is right. -/

namespace Sys2Proof.Machine

variable {n : Nat}

/-- A register write leaves every other register and x0 as they are. -/
theorem Hart.sameRegsBut_of_setX (h h' : Hart n) (r : Fin n) (v : BitVec n)
    (e : ∀ q, h'.x q = (h.setX r v).x q) : h.SameRegsBut h' (some r) := by
  intro q hq
  rw [e q, Hart.x_setX]
  by_cases hr : r.val = 0
  · simp [hr]
  · have : q ≠ r := by
      rintro rfl
      rcases hq with h1 | h1
      · exact h1 rfl
      · exact hr h1
    simp [this]

/-- A hart whose registers are the same cells. -/
theorem Hart.sameRegsBut_of_regs (h h' : Hart n) (rd : Option (Fin n)) (e : h'.regs = h.regs) :
    h.SameRegsBut h' rd := fun r _ => Hart.x_congr e r

/-- RVL32: a register write and the next pc. -/
theorem wrote32_writeNext (s : State) (rd : Reg32) {v v' : Word32} (e : v = v') :
    Wrote32 s { s with rvl32 := s.rvl32.writeNext rd v } rd v' (s.rvl32.pc + 4#32) := by
  subst e
  refine ⟨fun hr => ?_, by simp, Hart.sameRegsBut_of_setX _ _ rd v fun q => rfl, fun a => by simp, ?_, ?_⟩
  · simp [hr]
  · simp [Hart.SameHidden]
  · simp [State.SameAround32]

/-- V16: a register write and the next pc. -/
theorem wrote16_writeNext (s : State) (rd : Reg16) {v v' : Word16} (e : v = v') :
    Wrote16 s { s with v16 := s.v16.writeNext rd v } rd v' (s.v16.pc + 2#16) := by
  subst e
  refine ⟨fun hr => ?_, by simp, Hart.sameRegsBut_of_setX _ _ rd v fun q => rfl, fun a => by simp, ?_, ?_⟩
  · simp [hr]
  · simp [Hart.SameHidden]
  · simp [State.SameAround16]

/-- RVL32: a link and a jump. -/
theorem wrote32_link (s : State) (rd : Reg32) {t t' : Word32} (e : t = t') :
    Wrote32 s { s with rvl32 := s.rvl32.link rd t } rd (s.rvl32.pc + 4#32) t' := by
  subst e
  refine ⟨fun hr => ?_, by simp, Hart.sameRegsBut_of_setX _ _ rd _ fun q => rfl, fun a => by simp, ?_, ?_⟩
  · simp [hr]
  · simp [Hart.SameHidden]
  · simp [State.SameAround32]

/-- V16: a link and a jump. -/
theorem wrote16_link (s : State) (rd : Reg16) {t t' : Word16} (e : t = t') :
    Wrote16 s { s with v16 := s.v16.link rd t } rd (s.v16.pc + 2#16) t' := by
  subst e
  refine ⟨fun hr => ?_, by simp, Hart.sameRegsBut_of_setX _ _ rd _ fun q => rfl, fun a => by simp, ?_, ?_⟩
  · simp [hr]
  · simp [Hart.SameHidden]
  · simp [State.SameAround16]

/-- RVL32: a move of the pc. -/
theorem moved32_jump (s : State) {t t' : Word32} (e : t = t') :
    Moved32 s { s with rvl32 := s.rvl32.jump t } t' := by
  subst e
  exact ⟨rfl, fun _ _ => rfl, fun _ => rfl, ⟨rfl, rfl, rfl, rfl, rfl⟩, rfl, rfl, rfl, rfl, rfl, rfl⟩

/-- V16: a move of the pc. -/
theorem moved16_jump (s : State) {t t' : Word16} (e : t = t') :
    Moved16 s { s with v16 := s.v16.jump t } t' := by
  subst e
  exact ⟨rfl, fun _ _ => rfl, fun _ => rfl, ⟨rfl, rfl, rfl, rfl, rfl⟩, rfl, rfl, rfl, rfl, rfl, rfl⟩

/-- A completed store notes its addresses as R62 says. -/
theorem Hart.notedStored_writeBytes (h : Hart n) (addr : BitVec n) (bs : List Byte) :
    h.NotedStored (h.writeBytes addr bs).advance addr bs.length := by
  intro a
  rw [Hart.advance_stored]
  rcases hs : h.platform.smc with _ | _
  · rw [Hart.writeBytes_stored_refuse a bs h addr hs]; simp; tauto
  · rw [Hart.writeBytes_stored_coherent bs h addr hs]; simp

/-- A store that has written the low bytes of `v` and handed `events` over is a completed one, whatever it wrote to. -/
theorem Hart.completedStore_writeBytes (h : Hart n) (v addr : BitVec n) (width : Nat) (events : List IoEvent)
    (hm : Memory.wf n h.mem = true) (hw : width ≤ 2 ^ n) :
    h.CompletedStore { h.writeBytes addr (valueBytes v width) with io := events ++ h.io }.advance v addr width events := by
  obtain ⟨h1, h2, h3, h4, h5, _⟩ := Hart.writeBytes_frame (valueBytes v width) h addr
  refine ⟨fun k hk => ?_, fun a ha => ?_, ?_, ?_, h5, rfl, Hart.sameRegsBut_of_regs _ _ _ h1, h3, h4⟩
  · refine (Hart.writeBytes_read_self (valueBytes v width) h addr k (by simpa using hk) hm (by simpa using hw)).trans ?_
    simp [valueBytes]
  · exact Hart.writeBytes_read_other _ h addr a hm (by simpa using ha)
  · have := Hart.notedStored_writeBytes h addr (valueBytes v width)
    rwa [valueBytes_length] at this
  · exact congrArg (· + BitVec.ofNat n (ilen n)) h2

/-- A load that has seen its bytes and handed `events` over is a completed one, whatever it read. -/
theorem Hart.completedLoad_writeNext (h : Hart n) (rd : Fin n) (v addr : BitVec n) (width : Nat)
    (events : List IoEvent) :
    h.CompletedLoad ({ h with draws := h.draws + h.deviceBytes addr width, io := events ++ h.io }.writeNext rd v)
      rd v addr width events := by
  refine ⟨fun hr => ?_, by simp [Hart.nextPc], by simp, by simp, Hart.sameRegsBut_of_setX _ _ rd v fun q => ?_,
    fun a => by simp, by simp, by simp, by simp⟩
  · simp [hr]
  · rw [Hart.x_writeNext]
    exact Hart.x_congr (by unfold Hart.setX; split <;> rfl) q

/-- RVL32: a completed store to ordinary memory, whatever let it through. -/
theorem stored32_writeBytes (s : State) (v addr : Word32) (width : Nat) (hm : Memory.wf 32 s.rvl32.mem = true)
    (hw : width ≤ 4) (ho : s.rvl32.OrdinaryAt addr width) :
    Stored32 s { s with rvl32 := (s.rvl32.writeBytes addr (valueBytes v width)).advance } v addr width := by
  obtain ⟨c1, c2, c3, c4, c5, -, c7, c8, c9⟩ :=
    Hart.completedStore_writeBytes s.rvl32 v addr width [] hm (by omega)
  refine ⟨⟨fun k hk => (c1 k hk).trans ?_, c2⟩, c3, c4, c7, c8, c9, c5, ?_, rfl, rfl, rfl, rfl, rfl, rfl⟩
  · rw [if_neg (by simp [ho.deviceAt hk])]
  · exact (Hart.writeBytes_frame _ _ _).2.2.2.2.2

/-- V16: a completed store to ordinary memory, whatever let it through. -/
theorem stored16_writeBytes (s : State) (v addr : Word16) (width : Nat) (hm : Memory.wf 16 s.v16.mem = true)
    (hw : width ≤ 2) (ho : s.v16.OrdinaryAt addr width) :
    Stored16 s { s with v16 := (s.v16.writeBytes addr (valueBytes v width)).advance } v addr width := by
  obtain ⟨c1, c2, c3, c4, c5, -, c7, c8, c9⟩ :=
    Hart.completedStore_writeBytes s.v16 v addr width [] hm (by omega)
  refine ⟨⟨fun k hk => (c1 k hk).trans ?_, c2⟩, c3, c4, c7, c8, c9, c5, ?_, rfl, rfl, rfl, rfl, rfl, rfl⟩
  · rw [if_neg (by simp [ho.deviceAt hk])]
  · exact (Hart.writeBytes_frame _ _ _).2.2.2.2.2

end Sys2Proof.Machine
end

