-- ==== Sys2Proof/Laws/PerInstr.lean ====
section
/-! SUPPORT. Facts about every instruction as syntax, one lemma per constructor. -/

/-- An instruction's word is of its own machine (00_scope.md R1, 30_encoding.md R80, R100). -/
def Sys2Proof.Laws.EncodingLength.Statement (i : Sys2Proof.Instr) : Prop := (Sys2Proof.encode i).isa = i.isa

namespace Sys2Proof.Laws.EncodingLength

theorem lui (rd : Reg32) (imm20 : BitVec 20) : Statement (.lui rd imm20) := rfl

theorem auipc (rd : Reg32) (imm20 : BitVec 20) : Statement (.auipc rd imm20) := rfl

theorem jal (rd : Reg32) (imm20 : BitVec 20) : Statement (.jal rd imm20) := rfl

theorem jalr (rd rs1 : Reg32) (imm12 : BitVec 12) : Statement (.jalr rd rs1 imm12) := rfl

theorem beq (rd rs1 : Reg32) (imm12 : BitVec 12) : Statement (.beq rd rs1 imm12) := rfl

theorem bne (rd rs1 : Reg32) (imm12 : BitVec 12) : Statement (.bne rd rs1 imm12) := rfl

theorem blt (rd rs1 : Reg32) (imm12 : BitVec 12) : Statement (.blt rd rs1 imm12) := rfl

theorem bge (rd rs1 : Reg32) (imm12 : BitVec 12) : Statement (.bge rd rs1 imm12) := rfl

theorem bltu (rd rs1 : Reg32) (imm12 : BitVec 12) : Statement (.bltu rd rs1 imm12) := rfl

theorem bgeu (rd rs1 : Reg32) (imm12 : BitVec 12) : Statement (.bgeu rd rs1 imm12) := rfl

theorem lb (rd rs1 : Reg32) (imm12 : BitVec 12) : Statement (.lb rd rs1 imm12) := rfl

theorem lh (rd rs1 : Reg32) (imm12 : BitVec 12) : Statement (.lh rd rs1 imm12) := rfl

theorem lw (rd rs1 : Reg32) (imm12 : BitVec 12) : Statement (.lw rd rs1 imm12) := rfl

theorem lbu (rd rs1 : Reg32) (imm12 : BitVec 12) : Statement (.lbu rd rs1 imm12) := rfl

theorem lhu (rd rs1 : Reg32) (imm12 : BitVec 12) : Statement (.lhu rd rs1 imm12) := rfl

theorem sb (rd rs1 : Reg32) (imm12 : BitVec 12) : Statement (.sb rd rs1 imm12) := rfl

theorem sh (rd rs1 : Reg32) (imm12 : BitVec 12) : Statement (.sh rd rs1 imm12) := rfl

theorem sw (rd rs1 : Reg32) (imm12 : BitVec 12) : Statement (.sw rd rs1 imm12) := rfl

theorem addi (rd rs1 : Reg32) (imm12 : BitVec 12) : Statement (.addi rd rs1 imm12) := rfl

theorem slti (rd rs1 : Reg32) (imm12 : BitVec 12) : Statement (.slti rd rs1 imm12) := rfl

theorem sltiu (rd rs1 : Reg32) (imm12 : BitVec 12) : Statement (.sltiu rd rs1 imm12) := rfl

theorem xori (rd rs1 : Reg32) (imm12 : BitVec 12) : Statement (.xori rd rs1 imm12) := rfl

theorem ori (rd rs1 : Reg32) (imm12 : BitVec 12) : Statement (.ori rd rs1 imm12) := rfl

theorem andi (rd rs1 : Reg32) (imm12 : BitVec 12) : Statement (.andi rd rs1 imm12) := rfl

theorem slli (rd rs1 : Reg32) (imm5 : BitVec 5) : Statement (.slli rd rs1 imm5) := rfl

theorem srli (rd rs1 : Reg32) (imm5 : BitVec 5) : Statement (.srli rd rs1 imm5) := rfl

theorem srai (rd rs1 : Reg32) (imm5 : BitVec 5) : Statement (.srai rd rs1 imm5) := rfl

theorem add (rd rs1 rs2 : Reg32) : Statement (.add rd rs1 rs2) := rfl

theorem sub (rd rs1 rs2 : Reg32) : Statement (.sub rd rs1 rs2) := rfl

theorem sll (rd rs1 rs2 : Reg32) : Statement (.sll rd rs1 rs2) := rfl

theorem slt (rd rs1 rs2 : Reg32) : Statement (.slt rd rs1 rs2) := rfl

theorem sltu (rd rs1 rs2 : Reg32) : Statement (.sltu rd rs1 rs2) := rfl

theorem xor (rd rs1 rs2 : Reg32) : Statement (.xor rd rs1 rs2) := rfl

theorem srl (rd rs1 rs2 : Reg32) : Statement (.srl rd rs1 rs2) := rfl

theorem sra (rd rs1 rs2 : Reg32) : Statement (.sra rd rs1 rs2) := rfl

theorem or (rd rs1 rs2 : Reg32) : Statement (.or rd rs1 rs2) := rfl

theorem and (rd rs1 rs2 : Reg32) : Statement (.and rd rs1 rs2) := rfl

theorem fence (hi : BitVec 17) (mid : BitVec 5) : Statement (.fence hi mid) := rfl

theorem fenceI (hi : BitVec 17) (mid : BitVec 5) : Statement (.fenceI hi mid) := rfl

theorem ecall : Statement (.ecall) := rfl

theorem ebreak : Statement (.ebreak) := rfl

theorem wfi : Statement (.wfi) := rfl

theorem csrrw (rd rs1 : Reg32) (csr : BitVec 6) : Statement (.csrrw rd rs1 csr) := rfl

theorem csrrs (rd rs1 : Reg32) (csr : BitVec 6) : Statement (.csrrs rd rs1 csr) := rfl

theorem csrrc (rd rs1 : Reg32) (csr : BitVec 6) : Statement (.csrrc rd rs1 csr) := rfl

theorem csrrwi (rd : Reg32) (imm5 : BitVec 5) (csr : BitVec 6) : Statement (.csrrwi rd imm5 csr) := rfl

theorem csrrsi (rd : Reg32) (imm5 : BitVec 5) (csr : BitVec 6) : Statement (.csrrsi rd imm5 csr) := rfl

theorem csrrci (rd : Reg32) (imm5 : BitVec 5) (csr : BitVec 6) : Statement (.csrrci rd imm5 csr) := rfl

theorem mul (rd rs1 rs2 : Reg32) : Statement (.mul rd rs1 rs2) := rfl

theorem mulh (rd rs1 rs2 : Reg32) : Statement (.mulh rd rs1 rs2) := rfl

theorem mulhsu (rd rs1 rs2 : Reg32) : Statement (.mulhsu rd rs1 rs2) := rfl

theorem mulhu (rd rs1 rs2 : Reg32) : Statement (.mulhu rd rs1 rs2) := rfl

theorem div (rd rs1 rs2 : Reg32) : Statement (.div rd rs1 rs2) := rfl

theorem divu (rd rs1 rs2 : Reg32) : Statement (.divu rd rs1 rs2) := rfl

theorem rem (rd rs1 rs2 : Reg32) : Statement (.rem rd rs1 rs2) := rfl

theorem remu (rd rs1 rs2 : Reg32) : Statement (.remu rd rs1 rs2) := rfl

theorem v16And (rd rs1 rs2 : Reg16) : Statement (.v16And rd rs1 rs2) := rfl

theorem v16Or (rd rs1 rs2 : Reg16) : Statement (.v16Or rd rs1 rs2) := rfl

theorem v16Xor (rd rs1 rs2 : Reg16) : Statement (.v16Xor rd rs1 rs2) := rfl

theorem v16Not (rd rs1 : Reg16) : Statement (.v16Not rd rs1) := rfl

theorem v16Srl (rd rs1 rs2 : Reg16) : Statement (.v16Srl rd rs1 rs2) := rfl

theorem v16Sra (rd rs1 rs2 : Reg16) : Statement (.v16Sra rd rs1 rs2) := rfl

theorem v16Swp (rd rs1 : Reg16) : Statement (.v16Swp rd rs1) := rfl

theorem v16Add (rd rs1 rs2 : Reg16) : Statement (.v16Add rd rs1 rs2) := rfl

theorem v16Sub (rd rs1 rs2 : Reg16) : Statement (.v16Sub rd rs1 rs2) := rfl

theorem v16Jal (rd : Reg16) (imm8 : BitVec 8) : Statement (.v16Jal rd imm8) := rfl

theorem v16Li (rd : Reg16) (imm8 : BitVec 8) : Statement (.v16Li rd imm8) := rfl

theorem v16Lui (rd : Reg16) (imm8 : BitVec 8) : Statement (.v16Lui rd imm8) := rfl

theorem v16Auipc (rd : Reg16) (imm8 : BitVec 8) : Statement (.v16Auipc rd imm8) := rfl

theorem v16Lw (rd rs1 : Reg16) (imm4 : BitVec 4) : Statement (.v16Lw rd rs1 imm4) := rfl

theorem v16Sw (rd rs1 : Reg16) (imm4 : BitVec 4) : Statement (.v16Sw rd rs1 imm4) := rfl

theorem v16Lb (rd rs1 : Reg16) (imm4 : BitVec 4) : Statement (.v16Lb rd rs1 imm4) := rfl

theorem v16Sb (rd rs1 : Reg16) (imm4 : BitVec 4) : Statement (.v16Sb rd rs1 imm4) := rfl

theorem v16Jalr (rd rs1 : Reg16) : Statement (.v16Jalr rd rs1) := rfl

theorem v16IfEq (rd rs1 : Reg16) : Statement (.v16IfEq rd rs1) := rfl

theorem v16IfNe (rd rs1 : Reg16) : Statement (.v16IfNe rd rs1) := rfl

theorem v16IfLt (rd rs1 : Reg16) : Statement (.v16IfLt rd rs1) := rfl

theorem v16IfGe (rd rs1 : Reg16) : Statement (.v16IfGe rd rs1) := rfl

theorem v16IfLtu (rd rs1 : Reg16) : Statement (.v16IfLtu rd rs1) := rfl

theorem v16IfGeu (rd rs1 : Reg16) : Statement (.v16IfGeu rd rs1) := rfl

theorem v16Addi (rd rs1 : Reg16) (imm3 : BitVec 3) : Statement (.v16Addi rd rs1 imm3) := rfl

theorem v16Free0 (rd rs1 : Reg16) : Statement (.v16Free0 rd rs1) := rfl

theorem v16Free1 (rd rs1 : Reg16) : Statement (.v16Free1 rd rs1) := rfl

theorem v16Free3 (rd rs1 : Reg16) : Statement (.v16Free3 rd rs1) := rfl

theorem v16Free8 (imm8 : BitVec 8) : Statement (.v16Free8 imm8) := rfl

theorem v16Free9 (imm8 : BitVec 8) : Statement (.v16Free9 imm8) := rfl

theorem v16Free10 (imm8 : BitVec 8) : Statement (.v16Free10 imm8) := rfl

theorem v16Free15 (rd rs1 : Reg16) : Statement (.v16Free15 rd rs1) := rfl

end Sys2Proof.Laws.EncodingLength
end

