-- ==== Sys2Proof/Laws/Step.lean ====
section
/-! SUPPORT. What a fetch leaves alone, which machine a decoded word belongs to, and all a step can do, said once. -/

namespace Sys2Proof.Machine

variable {n : Nat}

/-- A fetch that answers changes nothing but the free values drawn and the record of device accesses. -/
theorem Hart.fetch_frame (h g : Hart n) (w : BitVec n) (e : h.fetch = .ok (w, g)) :
    g.regs = h.regs ∧ g.pc = h.pc ∧ g.mem = h.mem ∧ g.stored = h.stored ∧ g.fault = h.fault ∧
      g.platform = h.platform := by
  rcases hc : h.checkFetch with _ | f
  · rw [Hart.fetch_ok h hc] at e
    cases e
    simp [Hart.readAccess_eq]
  · rw [Hart.fetch_fault h f hc] at e
    cases e

/-- An RVL32 word decodes to an RVL32 instruction. -/
theorem decode_isa32 (w : Word32) (i : Instr) (h : decode (.rvl32 w) = .ok i) : i.isa = .rvl32 := by
  simp only [decode, decode32] at h
  split at h
  swap
  · cases h
  split at h
  all_goals try simp only [decodeBranch, decodeLoad, decodeStore, decodeOpImm, decodeOp, decodeOpBase, decodeMulDiv,
    decodeMiscMem, decodeSystem, decodeSystemWord, decodeCsr] at h
  all_goals repeat' split at h
  all_goals first | (cases h; done) | (cases h; rfl)

/-- A V16 word decodes to a V16 instruction. -/
theorem decode_isa16 (w : Word16) (i : Instr) (h : decode (.v16 w) = .ok i) : i.isa = .v16 := by
  simp only [decode, Except.ok.injEq] at h
  subst h
  simp only [decode16, decodeFun3]
  (repeat' split) <;> rfl

/-- A step of RVL32 is stuck, waits, or fetches: then it takes a fetch fault, rejects the word, or runs it. -/
theorem step_cases32 (s t : State) (hi : s.isa = .rvl32) (h : step s = .next t) :
    (s.rvl32.fault ≠ none ∧ t = s) ∨ (s.rvl32.fault = none ∧ s.waiting = true ∧ t = s.waitStep) ∨
    (s.rvl32.fault = none ∧ s.waiting = false ∧
      ((∃ f, s.rvl32.fetch = .error f ∧ t = { s with rvl32 := s.rvl32.raise f }) ∨
        ∃ w g, s.rvl32.fetch = .ok (w, g) ∧
          ((∃ r, decode (.rvl32 w) = .error r ∧ t = { s with rvl32 := g.raise (.illegalInstruction w.toNat) }) ∨
            ∃ i, decode (.rvl32 w) = .ok i ∧ i.isa = .rvl32 ∧ exec i { s with rvl32 := g } = .next t))) := by
  simp only [step, hi, State.step32] at h
  split at h
  · rename_i q
    cases h
    exact .inl ⟨fun e => by simp [e] at q, rfl⟩
  · rename_i q
    have hf : s.rvl32.fault = none := by simpa using q
    split at h
    · cases h
      exact .inr (.inl ⟨hf, by assumption, rfl⟩)
    · rename_i q2
      refine .inr (.inr ⟨hf, by simpa using q2, ?_⟩)
      simp only [State.run32] at h
      split at h
      · cases h
        exact .inl ⟨_, by assumption, rfl⟩
      · rename_i w g hfe
        refine .inr ⟨w, g, hfe, ?_⟩
        split at h
        · cases h
          exact .inl ⟨_, by assumption, rfl⟩
        · rename_i i hd
          exact .inr ⟨i, hd, decode_isa32 _ _ hd, h⟩

/-- A step of V16 is stuck or fetches: then it takes a fetch fault or runs the word. -/
theorem step_cases16 (s t : State) (hi : s.isa = .v16) (h : step s = .next t) :
    (s.v16.fault ≠ none ∧ t = s) ∨
    (s.v16.fault = none ∧ ((∃ f, s.v16.fetch = .error f ∧ t = { s with v16 := s.v16.raise f }) ∨
      ∃ w g, s.v16.fetch = .ok (w, g) ∧
        ∃ i, decode (.v16 w) = .ok i ∧ i.isa = .v16 ∧ exec i { s with v16 := g } = .next t)) := by
  simp only [step, hi, State.step16] at h
  split at h
  · rename_i q
    cases h
    exact .inl ⟨fun e => by simp [e] at q, rfl⟩
  · rename_i q
    refine .inr ⟨by simpa using q, ?_⟩
    simp only [State.run16] at h
    split at h
    · cases h
      exact .inl ⟨_, by assumption, rfl⟩
    · rename_i w g hfe
      refine .inr ⟨w, g, hfe, ?_⟩
      split at h
      · rename_i hd
        simp [decode] at hd
      · rename_i i hd
        exact ⟨i, hd, decode_isa16 _ _ hd, h⟩

end Sys2Proof.Machine
end

