-- ==== Sys2Proof/Machine/Assembly.lean ====
section
/-! DEFINITION. The source's assembly notation (30_encoding.md R120 to R123) and the ABI register names
(10_state.md R20, R36). No instruction gives the names a meaning (R23), and `exec` does not use this file. -/

namespace Sys2Proof.Machine

/-- The ABI name of an RVL32 register (10_state.md R20). -/
def abiName32 (r : Reg32) : String :=
  ["zero", "ra", "sp", "gp", "tp", "t0", "t1", "t2", "s0", "s1", "a0", "a1", "a2", "a3", "a4", "a5", "a6", "a7",
    "s2", "s3", "s4", "s5", "s6", "s7", "s8", "s9", "s10", "s11", "t3", "t4", "t5", "t6"].getD r.val ""

/-- The ABI name of a V16 register (10_state.md R36). -/
def abiName16 (r : Reg16) : String :=
  ["zero", "ra", "sp", "t0", "t1", "t2", "t3", "rt", "s0", "s1", "s2", "s3", "a0", "a1", "a2", "a3"].getD r.val ""

/-- A number in decimal (30_encoding.md R120). -/
def decimal (v : Int) : String := toString v

/-- A target address: the operand of a jump or branch (30_encoding.md R122). -/
def address (a xlen : Nat) : String := toString (a % 2 ^ xlen)

/-- A memory operand, `offset(base)` (30_encoding.md R120). -/
def memOperand (offset : Int) (base : String) : String := decimal offset ++ "(" ++ base ++ ")"

/-- The mnemonic in lower case (30_encoding.md R87, R103, R104, R120); a FREE word has none. -/
def Instr.mnemonic : Instr → Option String
  | .lui _ _ => some "lui"
  | .auipc _ _ => some "auipc"
  | .jal _ _ => some "jal"
  | .jalr _ _ _ => some "jalr"
  | .beq _ _ _ => some "beq"
  | .bne _ _ _ => some "bne"
  | .blt _ _ _ => some "blt"
  | .bge _ _ _ => some "bge"
  | .bltu _ _ _ => some "bltu"
  | .bgeu _ _ _ => some "bgeu"
  | .lb _ _ _ => some "lb"
  | .lh _ _ _ => some "lh"
  | .lw _ _ _ => some "lw"
  | .lbu _ _ _ => some "lbu"
  | .lhu _ _ _ => some "lhu"
  | .sb _ _ _ => some "sb"
  | .sh _ _ _ => some "sh"
  | .sw _ _ _ => some "sw"
  | .addi _ _ _ => some "addi"
  | .slti _ _ _ => some "slti"
  | .sltiu _ _ _ => some "sltiu"
  | .xori _ _ _ => some "xori"
  | .ori _ _ _ => some "ori"
  | .andi _ _ _ => some "andi"
  | .slli _ _ _ => some "slli"
  | .srli _ _ _ => some "srli"
  | .srai _ _ _ => some "srai"
  | .add _ _ _ => some "add"
  | .sub _ _ _ => some "sub"
  | .sll _ _ _ => some "sll"
  | .slt _ _ _ => some "slt"
  | .sltu _ _ _ => some "sltu"
  | .xor _ _ _ => some "xor"
  | .srl _ _ _ => some "srl"
  | .sra _ _ _ => some "sra"
  | .or _ _ _ => some "or"
  | .and _ _ _ => some "and"
  | .fence _ _ => some "fence"
  | .fenceI _ _ => some "fence.i"
  | .ecall => some "ecall"
  | .ebreak => some "ebreak"
  | .wfi => some "wfi"
  | .csrrw _ _ _ => some "csrrw"
  | .csrrs _ _ _ => some "csrrs"
  | .csrrc _ _ _ => some "csrrc"
  | .csrrwi _ _ _ => some "csrrwi"
  | .csrrsi _ _ _ => some "csrrsi"
  | .csrrci _ _ _ => some "csrrci"
  | .mul _ _ _ => some "mul"
  | .mulh _ _ _ => some "mulh"
  | .mulhsu _ _ _ => some "mulhsu"
  | .mulhu _ _ _ => some "mulhu"
  | .div _ _ _ => some "div"
  | .divu _ _ _ => some "divu"
  | .rem _ _ _ => some "rem"
  | .remu _ _ _ => some "remu"
  | .v16And _ _ _ => some "and"
  | .v16Or _ _ _ => some "or"
  | .v16Xor _ _ _ => some "xor"
  | .v16Not _ _ => some "not"
  | .v16Srl _ _ _ => some "srl"
  | .v16Sra _ _ _ => some "sra"
  | .v16Swp _ _ => some "swp"
  | .v16Add _ _ _ => some "add"
  | .v16Sub _ _ _ => some "sub"
  | .v16Jal _ _ => some "jal"
  | .v16Li _ _ => some "li"
  | .v16Lui _ _ => some "lui"
  | .v16Auipc _ _ => some "auipc"
  | .v16Lw _ _ _ => some "lw"
  | .v16Sw _ _ _ => some "sw"
  | .v16Lb _ _ _ => some "lb"
  | .v16Sb _ _ _ => some "sb"
  | .v16Jalr _ _ => some "jalr"
  | .v16IfEq _ _ => some "ifeq"
  | .v16IfNe _ _ => some "ifne"
  | .v16IfLt _ _ => some "iflt"
  | .v16IfGe _ _ => some "ifge"
  | .v16IfLtu _ _ => some "ifltu"
  | .v16IfGeu _ _ => some "ifgeu"
  | .v16Addi _ _ _ => some "addi"
  | .v16Free0 _ _ | .v16Free1 _ _ | .v16Free3 _ _ | .v16Free8 _ | .v16Free9 _ | .v16Free10 _ | .v16Free15 _ _ => none

/-- The operands in the order of 30_encoding.md R121 and R123, for an instruction at address `pc`. The immediate of V16 `addi`
is written as the field value 0 to 7 under both settings of `V16_IMM3_SIGNED`: the spec leaves open how field values 4
to 7 are written (R105, R123, 48_v16_alu.md R253), and this is the model's choice (DESIGN CHOICE, log 23). -/
def Instr.operands (pc : Nat) : Instr → List String
  | .lui rd imm20 | .auipc rd imm20 =>
    [abiName32 rd, decimal imm20.toNat]
  | .jal rd imm20 =>
    [abiName32 rd, address (pc + (jalOffset imm20).toNat) 32]
  | .jalr rd rs1 imm12 =>
    [abiName32 rd, abiName32 rs1, decimal (4 * imm12.toInt)]
  | .beq rd rs1 imm12 | .bne rd rs1 imm12 | .blt rd rs1 imm12 | .bge rd rs1 imm12 | .bltu rd rs1 imm12
  | .bgeu rd rs1 imm12 =>
    [abiName32 rd, abiName32 rs1, address (pc + (immOffset imm12).toNat) 32]
  | .lb rd rs1 imm12 | .lh rd rs1 imm12 | .lw rd rs1 imm12 | .lbu rd rs1 imm12 | .lhu rd rs1 imm12
  | .sb rd rs1 imm12 | .sh rd rs1 imm12 | .sw rd rs1 imm12 =>
    [abiName32 rd, memOperand imm12.toInt (abiName32 rs1)]
  | .addi rd rs1 imm12 | .slti rd rs1 imm12 | .sltiu rd rs1 imm12 | .xori rd rs1 imm12 | .ori rd rs1 imm12
  | .andi rd rs1 imm12 =>
    [abiName32 rd, abiName32 rs1, decimal imm12.toInt]
  | .slli rd rs1 imm5 | .srli rd rs1 imm5 | .srai rd rs1 imm5 =>
    [abiName32 rd, abiName32 rs1, decimal imm5.toNat]
  | .add rd rs1 rs2 | .sub rd rs1 rs2 | .sll rd rs1 rs2 | .slt rd rs1 rs2 | .sltu rd rs1 rs2 | .xor rd rs1 rs2
  | .srl rd rs1 rs2 | .sra rd rs1 rs2 | .or rd rs1 rs2 | .and rd rs1 rs2 | .mul rd rs1 rs2 | .mulh rd rs1 rs2
  | .mulhsu rd rs1 rs2 | .mulhu rd rs1 rs2 | .div rd rs1 rs2 | .divu rd rs1 rs2 | .rem rd rs1 rs2
  | .remu rd rs1 rs2 =>
    [abiName32 rd, abiName32 rs1, abiName32 rs2]
  | .fence _ _ | .fenceI _ _ | .ecall | .ebreak | .wfi | .v16Free0 _ _ | .v16Free1 _ _ | .v16Free3 _ _
  | .v16Free8 _ | .v16Free9 _ | .v16Free10 _ | .v16Free15 _ _ =>
    []
  | .csrrw rd rs1 csr | .csrrs rd rs1 csr | .csrrc rd rs1 csr =>
    [abiName32 rd, abiName32 rs1, decimal csr.toNat]
  | .csrrwi rd imm5 csr | .csrrsi rd imm5 csr | .csrrci rd imm5 csr =>
    [abiName32 rd, decimal imm5.toNat, decimal csr.toNat]
  | .v16And rd rs1 rs2 | .v16Or rd rs1 rs2 | .v16Xor rd rs1 rs2 | .v16Srl rd rs1 rs2 | .v16Sra rd rs1 rs2
  | .v16Add rd rs1 rs2 | .v16Sub rd rs1 rs2 =>
    [abiName16 rd, abiName16 rs1, abiName16 rs2]
  | .v16Not rd rs1 | .v16Swp rd rs1 | .v16Jalr rd rs1 | .v16IfEq rd rs1 | .v16IfNe rd rs1 | .v16IfLt rd rs1
  | .v16IfGe rd rs1 | .v16IfLtu rd rs1 | .v16IfGeu rd rs1 =>
    [abiName16 rd, abiName16 rs1]
  | .v16Jal rd imm8 =>
    [abiName16 rd, address (pc + (jalOffset16 imm8).toNat) 16]
  | .v16Li rd imm8 =>
    [abiName16 rd, decimal imm8.toInt]
  | .v16Lui rd imm8 | .v16Auipc rd imm8 =>
    [abiName16 rd, decimal imm8.toNat]
  | .v16Lw rd rs1 imm4 | .v16Sw rd rs1 imm4 | .v16Lb rd rs1 imm4 | .v16Sb rd rs1 imm4 =>
    [abiName16 rd, memOperand imm4.toNat (abiName16 rs1)]
  | .v16Addi rd rs1 imm3 =>
    [abiName16 rd, abiName16 rs1, decimal imm3.toNat]

/-- One line of assembly, operands separated by spaces; a FREE word has no line (30_encoding.md R120). -/
def Instr.line (pc : Nat) (i : Instr) : Option String :=
  (Instr.mnemonic i).map fun m => " ".intercalate (m :: Instr.operands pc i)

end Sys2Proof.Machine
end

