-- ==== Sys2Proof/Tests/Slice0.lean ====
section
/-! SUPPORT. Tests. Expected words and results are those of 95_test_vectors.md (part L2 unless a comment says otherwise), of the
table of 30_encoding.md R110 and of the examples of the rules named; none is the model's own answer. -/

namespace Sys2Proof.Tests

open Sys2Proof Sys2Proof.Machine

/-! ### Small states -/

/-- RVL32 with the listed registers and bytes at a pc, the rest as at reset, on a platform. -/
def start32 (regs : List (Reg32 × Word32)) (cells : List Host.Cell) (pc : Word32) (p : Platform := baselinePlatform32) : State :=
  let h := regs.foldl (fun h r => h.setX r.1 r.2) State.reset.rvl32
  { State.reset with rvl32 := { h with pc := pc, mem := Memory.ofCells 32 cells, platform := p } }

/-- V16 likewise, selected. -/
def start16 (regs : List (Reg16 × Word16)) (cells : List Host.Cell) (pc : Word16) (p : Platform := baselinePlatform16) : State :=
  let h := regs.foldl (fun h r => h.setX r.1 r.2) State.reset.v16
  { State.reset with isa := .v16, v16 := { h with pc := pc, mem := Memory.ofCells 16 cells, platform := p } }

/-- One step on a word leaves the listed registers and bytes, that pc, and no fault. -/
def gives32 (s : State) (w : Nat) (regs : List (Reg32 × Word32)) (cells : List Host.Cell) (pc : Word32) : Bool :=
  match step (s.withFetchWord 32 w) with
  | .next t => regs.all (fun r => t.rvl32.x r.1 == r.2) && cells.all (fun c => t.rvl32.mem.read c.1 == c.2) &&
      t.rvl32.pc == pc && t.rvl32.fault.isNone
  | .fault _ | .refused _ => false

/-- The same of V16. -/
def gives16 (s : State) (w : Nat) (regs : List (Reg16 × Word16)) (cells : List Host.Cell) (pc : Word16) : Bool :=
  match step (s.withFetchWord 16 w) with
  | .next t => regs.all (fun r => t.v16.x r.1 == r.2) && cells.all (fun c => t.v16.mem.read c.1 == c.2) &&
      t.v16.pc == pc && t.v16.fault.isNone
  | .fault _ | .refused _ => false

/-- One step on a word enters the terminal fault with that reason. -/
def faults32 (s : State) (w : Nat) (f : Fault) : Bool :=
  match step (s.withFetchWord 32 w) with
  | .next t => t.rvl32.fault == some f && t.rvl32.pc == s.rvl32.pc
  | .fault _ | .refused _ => false

/-- The same of V16. -/
def faults16 (s : State) (w : Nat) (f : Fault) : Bool :=
  match step (s.withFetchWord 16 w) with
  | .next t => t.v16.fault == some f && t.v16.pc == s.v16.pc
  | .fault _ | .refused _ => false

/-! ### Well-formedness: one ill-formed term for each check (30_encoding.md R106, R110) -/

theorem test_ill_formed_and : (Instr.v16And 5 3 0).wellFormed = false := by decide
theorem test_ill_formed_or : (Instr.v16Or 5 3 0).wellFormed = false := by decide
theorem test_ill_formed_xor : (Instr.v16Xor 5 3 0).wellFormed = false := by decide
theorem test_ill_formed_srl : (Instr.v16Srl 5 3 0).wellFormed = false := by decide
theorem test_ill_formed_sra : (Instr.v16Sra 5 3 0).wellFormed = false := by decide
theorem test_ill_formed_li : (Instr.v16Li 0 0x0A#8).wellFormed = false := by decide
theorem test_ill_formed_lui : (Instr.v16Lui 0 0x12#8).wellFormed = false := by decide
theorem test_ill_formed_auipc : (Instr.v16Auipc 0 0x02#8).wellFormed = false := by decide

/-! ### Decoding and encoding: one written word for each constructor -/

/-- The word decodes to the instruction and the instruction encodes to the word. -/
def code32 (w : Word32) (i : Instr) : Bool := decide (decode (.rvl32 w) = .ok i) && decide (encode i = .rvl32 w)

/-- The same of V16. -/
def code16 (w : Word16) (i : Instr) : Bool := decide (decode (.v16 w) = .ok i) && decide (encode i = .v16 w)

theorem test_code_upper_and_jumps :
    code32 0x123452B7#32 (.lui 5 0x12345#20) ∧ code32 0x00001317#32 (.auipc 6 0x00001#20) ∧
    code32 0x000040EF#32 (.jal 1 4#20) ∧ code32 0xFFE300E7#32 (.jalr 1 6 0xFFE#12) := by decide

theorem test_code_branches :
    code32 0x003302E3#32 (.beq 5 6 3#12) ∧ code32 0x003312E3#32 (.bne 5 6 3#12) ∧
    code32 0x003342E3#32 (.blt 5 6 3#12) ∧ code32 0x003352E3#32 (.bge 5 6 3#12) ∧
    code32 0x003362E3#32 (.bltu 5 6 3#12) ∧ code32 0x003372E3#32 (.bgeu 5 6 3#12) := by decide

theorem test_code_loads_stores :
    code32 0x00440383#32 (.lb 7 8 4#12) ∧ code32 0x00241383#32 (.lh 7 8 2#12) ∧
    code32 0x80042383#32 (.lw 7 8 0x800#12) ∧ code32 0xFFF44383#32 (.lbu 7 8 0xFFF#12) ∧
    code32 0x00645383#32 (.lhu 7 8 6#12) ∧ code32 0x001403A3#32 (.sb 7 8 1#12) ∧
    code32 0x002413A3#32 (.sh 7 8 2#12) ∧ code32 0xFFC423A3#32 (.sw 7 8 0xFFC#12) := by decide

theorem test_code_op_imm :
    code32 0xFFF30293#32 (.addi 5 6 0xFFF#12) ∧ code32 0xFFF32293#32 (.slti 5 6 0xFFF#12) ∧
    code32 0x7FF33293#32 (.sltiu 5 6 0x7FF#12) ∧ code32 0x0FF34293#32 (.xori 5 6 0x0FF#12) ∧
    code32 0x70036293#32 (.ori 5 6 0x700#12) ∧ code32 0xFF037293#32 (.andi 5 6 0xFF0#12) ∧
    code32 0x00431293#32 (.slli 5 6 4#5) ∧ code32 0x01F35293#32 (.srli 5 6 31#5) ∧
    code32 0x40435293#32 (.srai 5 6 4#5) := by decide

theorem test_code_op :
    code32 0x007302B3#32 (.add 5 6 7) ∧ code32 0x407302B3#32 (.sub 5 6 7) ∧ code32 0x007312B3#32 (.sll 5 6 7) ∧
    code32 0x007322B3#32 (.slt 5 6 7) ∧ code32 0x007332B3#32 (.sltu 5 6 7) ∧ code32 0x007342B3#32 (.xor 5 6 7) ∧
    code32 0x007352B3#32 (.srl 5 6 7) ∧ code32 0x407352B3#32 (.sra 5 6 7) ∧ code32 0x007362B3#32 (.or 5 6 7) ∧
    code32 0x007372B3#32 (.and 5 6 7) := by decide

theorem test_code_system :
    code32 0x0FF0000F#32 (.fence 0x01FE0#17 0#5) ∧ code32 0x0000100F#32 (.fenceI 0#17 0#5) ∧
    code32 0x00000073#32 .ecall ∧ code32 0x00100073#32 .ebreak ∧ code32 0x10500073#32 .wfi ∧
    code32 0x003312F3#32 (.csrrw 5 6 3#6) ∧ code32 0x003322F3#32 (.csrrs 5 6 3#6) ∧
    code32 0x003332F3#32 (.csrrc 5 6 3#6) ∧ code32 0x003FD2F3#32 (.csrrwi 5 31#5 3#6) ∧
    code32 0x003FE2F3#32 (.csrrsi 5 31#5 3#6) ∧ code32 0x003872F3#32 (.csrrci 5 16#5 3#6) := by decide

theorem test_code_muldiv :
    code32 0x027302B3#32 (.mul 5 6 7) ∧ code32 0x027312B3#32 (.mulh 5 6 7) ∧ code32 0x027322B3#32 (.mulhsu 5 6 7) ∧
    code32 0x027332B3#32 (.mulhu 5 6 7) ∧ code32 0x027342B3#32 (.div 5 6 7) ∧ code32 0x027352B3#32 (.divu 5 6 7) ∧
    code32 0x027362B3#32 (.rem 5 6 7) ∧ code32 0x027372B3#32 (.remu 5 6 7) := by decide

theorem test_code_v16_alu :
    code16 0x3450#16 (.v16And 5 3 4) ∧ code16 0x3451#16 (.v16Or 5 3 4) ∧ code16 0x3452#16 (.v16Xor 5 3 4) ∧
    code16 0x3052#16 (.v16Not 5 3) ∧ code16 0x3453#16 (.v16Srl 5 3 4) ∧ code16 0x3454#16 (.v16Sra 5 3 4) ∧
    code16 0x3054#16 (.v16Swp 5 3) ∧ code16 0x3455#16 (.v16Add 5 3 4) ∧ code16 0x3456#16 (.v16Sub 5 3 4) ∧
    code16 0x0A38#16 (.v16Li 3 0x0A#8) ∧ code16 0x1239#16 (.v16Lui 3 0x12#8) ∧
    code16 0x023A#16 (.v16Auipc 3 0x02#8) ∧ code16 0xCCDF#16 (.v16Addi 13 12 4#3) := by decide

theorem test_code_v16_control_memory :
    code16 0x0817#16 (.v16Jal 1 0x08#8) ∧ code16 0x301F#16 (.v16Jalr 1 3) ∧ code16 0x413F#16 (.v16IfEq 3 4) ∧
    code16 0x423F#16 (.v16IfNe 3 4) ∧ code16 0x433F#16 (.v16IfLt 3 4) ∧ code16 0x443F#16 (.v16IfGe 3 4) ∧
    code16 0x453F#16 (.v16IfLtu 3 4) ∧ code16 0x463F#16 (.v16IfGeu 3 4) ∧ code16 0x823B#16 (.v16Lw 3 8 2#4) ∧
    code16 0x281C#16 (.v16Sw 1 2 8#4) ∧ code16 0x843D#16 (.v16Lb 3 8 4#4) ∧
    code16 0x2F3E#16 (.v16Sb 3 2 15#4) := by decide

theorem test_code_v16_free :
    code16 0xF0F0#16 (.v16Free0 15 15) ∧ code16 0x3051#16 (.v16Free1 5 3) ∧ code16 0x3053#16 (.v16Free3 5 3) ∧
    code16 0x1208#16 (.v16Free8 0x12#8) ∧ code16 0xFF09#16 (.v16Free9 0xFF#8) ∧ code16 0x050A#16 (.v16Free10 0x05#8) ∧
    code16 0x473F#16 (.v16Free15 3 4) := by decide

/-- Words of 30_encoding.md R90, R95 that decode to nothing. -/
theorem test_reserved_words :
    [0x00000000#32, 0xFFFFFFFF#32, 0x0000000B#32, 0x00000007#32, 0x0000002F#32, 0x0000001B#32, 0x00000001#32, 0x000290E7#32,
      0x003322E3#32, 0x00043383#32, 0x000433A3#32, 0x40431293#32, 0x407312B3#32, 0x0000200F#32, 0x00200073#32,
      0x10500173#32, 0x30529073#32, 0x003342F3#32].all (fun w => (decode (.rvl32 w)).toOption.isNone) = true := by decide

/-- The table's numbering of bits: rows of 16 bits are V16's, of 32 bits RVL32's. -/
theorem test_decode_table_word :
    decodeTableWord 32 0x123452B7 = some (.lui 5 0x12345#20) ∧ decodeTableWord 16 0x0817 = some (.v16Jal 1 0x08#8) ∧
    decodeTableWord 32 0x00000000 = none := by decide

/-! ### One step: RVL32 -/

theorem test_lui :
    gives32 (start32 [(5, 0xFFFFFFFF#32)] [] 0x1000#32) 0x800002B7 [(5, 0x80000000#32)] [] 0x1004#32 = true ∧
    gives32 (start32 [] [] 0x1000#32) 0xFFFFF037 [(0, 0x0#32)] [] 0x1004#32 = true := by decide

theorem test_auipc :
    gives32 (start32 [(6, 0x55#32)] [] 0x1000#32) 0xFFFFF317 [(6, 0x0#32)] [] 0x1004#32 = true ∧
    gives32 (start32 [] [] 0x2004#32) 0x00000317 [(6, 0x2004#32)] [] 0x2008#32 = true := by decide

theorem test_jal32 :
    gives32 (start32 [] [] 0x200000#32) 0x800000EF [(1, 0x200004#32)] [] 0x0#32 = true ∧
    gives32 (start32 [] [] 0x1000#32) 0x7FFFF0EF [(1, 0x1004#32)] [] 0x200FFC#32 = true := by decide

theorem test_jalr32 :
    gives32 (start32 [(1, 0x2000#32)] [] 0x1000#32) 0x001080E7 [(1, 0x1004#32)] [] 0x2004#32 = true ∧
    faults32 (start32 [(5, 0x2002#32)] [] 0x1000#32) 0x000280E7 (.misalignedFetch 0x00002002) = true := by decide

theorem test_beq :
    gives32 (start32 [(5, 0x5#32), (6, 0x5#32)] [] 0x1000#32) 0x003302E3 [] [] 0x100C#32 = true ∧
    gives32 (start32 [(5, 0xFFFFFFFF#32), (6, 0x1#32)] [] 0x1000#32) 0x003302E3 [] [] 0x1004#32 = true := by decide

theorem test_bne :
    gives32 (start32 [(5, 0x1#32)] [] 0x1010#32) 0xFFE012E3 [] [] 0x1008#32 = true ∧
    gives32 (start32 [(5, 0x5#32), (6, 0x5#32)] [] 0x1000#32) 0x003312E3 [] [] 0x1004#32 = true := by decide

theorem test_blt :
    gives32 (start32 [(5, 0xFFFFFFFF#32), (6, 0x1#32)] [] 0x1000#32) 0x003342E3 [] [] 0x100C#32 = true ∧
    gives32 (start32 [(5, 0x1#32), (6, 0xFFFFFFFF#32)] [] 0x1000#32) 0x003342E3 [] [] 0x1004#32 = true := by decide

theorem test_bge :
    gives32 (start32 [(5, 0xFFFFFFFF#32), (6, 0x1#32)] [] 0x1000#32) 0x003352E3 [] [] 0x1004#32 = true ∧
    gives32 (start32 [(5, 0x1#32), (6, 0xFFFFFFFF#32)] [] 0x1000#32) 0x003352E3 [] [] 0x100C#32 = true := by decide

theorem test_bltu :
    gives32 (start32 [(5, 0xFFFFFFFF#32), (6, 0x1#32)] [] 0x1000#32) 0x003362E3 [] [] 0x1004#32 = true ∧
    gives32 (start32 [(5, 0x1#32), (6, 0xFFFFFFFF#32)] [] 0x1000#32) 0x003362E3 [] [] 0x100C#32 = true := by decide

theorem test_bgeu :
    gives32 (start32 [(5, 0x80000000#32), (6, 0x7FFFFFFF#32)] [] 0x4000#32) 0x800372E3 [] [] 0x2000#32 = true ∧
    gives32 (start32 [(5, 0x1#32), (6, 0xFFFFFFFF#32)] [] 0x1000#32) 0x003372E3 [] [] 0x1004#32 = true := by decide

theorem test_lb32 :
    gives32 (start32 [(8, 0x2000#32)] [(0x2000, 0x80#8), (0x2001, 0xFF#8), (0x2002, 0x34#8), (0x2003, 0x12#8), (0x2004, 0x7F#8), (0x2005, 0x00#8), (0x2006, 0xCD#8), (0x2007, 0xAB#8)] 0x1000#32) 0x00040383 [(7, 0xFFFFFF80#32)] [] 0x1004#32 = true ∧
    gives32 (start32 [(8, 0x2000#32)] [(0x2000, 0x80#8), (0x2001, 0xFF#8), (0x2002, 0x34#8), (0x2003, 0x12#8), (0x2004, 0x7F#8), (0x2005, 0x00#8), (0x2006, 0xCD#8), (0x2007, 0xAB#8)] 0x1000#32) 0x00440383 [(7, 0x7F#32)] [] 0x1004#32 = true := by decide

theorem test_lh :
    gives32 (start32 [(8, 0x2000#32)] [(0x2000, 0x80#8), (0x2001, 0xFF#8), (0x2002, 0x34#8), (0x2003, 0x12#8), (0x2004, 0x7F#8), (0x2005, 0x00#8), (0x2006, 0xCD#8), (0x2007, 0xAB#8)] 0x1000#32) 0x00041383 [(7, 0xFFFFFF80#32)] [] 0x1004#32 = true ∧
    faults32 (start32 [(8, 0x2000#32)] [(0x2000, 0x80#8), (0x2001, 0xFF#8), (0x2002, 0x34#8), (0x2003, 0x12#8), (0x2004, 0x7F#8), (0x2005, 0x00#8), (0x2006, 0xCD#8), (0x2007, 0xAB#8)] 0x1000#32) 0x00141383 (.misalignedAccess 0x00002001) = true := by decide

theorem test_lw32 :
    gives32 (start32 [(8, 0x2800#32)] [(0x2000, 0x80#8), (0x2001, 0xFF#8), (0x2002, 0x34#8), (0x2003, 0x12#8), (0x2004, 0x7F#8), (0x2005, 0x00#8), (0x2006, 0xCD#8), (0x2007, 0xAB#8)] 0x1000#32) 0x80042383 [(7, 0x1234FF80#32)] [] 0x1004#32 = true ∧
    gives32 (start32 [(8, 0x2000#32)] [(0x2000, 0x80#8), (0x2001, 0xFF#8), (0x2002, 0x34#8), (0x2003, 0x12#8), (0x2004, 0x7F#8), (0x2005, 0x00#8), (0x2006, 0xCD#8), (0x2007, 0xAB#8)] 0x1000#32) 0x00042403 [(8, 0x1234FF80#32)] [] 0x1004#32 = true := by decide

theorem test_lbu :
    gives32 (start32 [(8, 0x2002#32)] [(0x2000, 0x80#8), (0x2001, 0xFF#8), (0x2002, 0x34#8), (0x2003, 0x12#8), (0x2004, 0x7F#8), (0x2005, 0x00#8), (0x2006, 0xCD#8), (0x2007, 0xAB#8)] 0x1000#32) 0xFFF44383 [(7, 0xFF#32)] [] 0x1004#32 = true := by decide

theorem test_lhu :
    gives32 (start32 [(8, 0x2000#32)] [(0x2000, 0x80#8), (0x2001, 0xFF#8), (0x2002, 0x34#8), (0x2003, 0x12#8), (0x2004, 0x7F#8), (0x2005, 0x00#8), (0x2006, 0xCD#8), (0x2007, 0xAB#8)] 0x1000#32) 0x00645383 [(7, 0xABCD#32)] [] 0x1004#32 = true := by decide

theorem test_sb32 :
    gives32 (start32 [(7, 0x12345678#32), (8, 0x3000#32)] [] 0x1000#32) 0x001403A3 [] [(0x3001, 0x78#8)] 0x1004#32 = true := by decide

theorem test_sh :
    gives32 (start32 [(7, 0x12345678#32), (8, 0x3000#32)] [] 0x1000#32) 0x002413A3 [] [(0x3002, 0x78#8), (0x3003, 0x56#8)] 0x1004#32 = true ∧
    faults32 (start32 [(7, 0x12345678#32), (8, 0x3000#32)] [] 0x1000#32) 0x001413A3 (.misalignedAccess 0x00003001) = true := by decide

theorem test_sw32 :
    gives32 (start32 [(7, 0x12345678#32), (8, 0x3004#32)] [] 0x1000#32) 0xFFC423A3 [] [(0x3000, 0x78#8), (0x3001, 0x56#8), (0x3002, 0x34#8), (0x3003, 0x12#8)] 0x1004#32 = true ∧
    gives32 (start32 [(7, 0xA1B2C3D4#32)] [] 0x1000#32) 0xFFC023A3 [] [(0xFFFFFFFC, 0xD4#8), (0xFFFFFFFD, 0xC3#8), (0xFFFFFFFE, 0xB2#8), (0xFFFFFFFF, 0xA1#8)] 0x1004#32 = true := by decide

theorem test_addi32 :
    gives32 (start32 [(6, 0x800#32)] [] 0x1000#32) 0x80030293 [(5, 0x0#32)] [] 0x1004#32 = true ∧
    gives32 (start32 [(6, 0x1#32)] [] 0x1000#32) 0x7FF30293 [(5, 0x800#32)] [] 0x1004#32 = true := by decide

theorem test_slti :
    gives32 (start32 [(6, 0xFFFFFFFE#32)] [] 0x1000#32) 0xFFF32293 [(5, 0x1#32)] [] 0x1004#32 = true ∧
    gives32 (start32 [(6, 0x5#32)] [] 0x1000#32) 0x00532293 [(5, 0x0#32)] [] 0x1004#32 = true := by decide

theorem test_sltiu :
    gives32 (start32 [(6, 0xFFFFFFFE#32)] [] 0x1000#32) 0xFFF33293 [(5, 0x1#32)] [] 0x1004#32 = true ∧
    gives32 (start32 [(6, 0x800#32)] [] 0x1000#32) 0x7FF33293 [(5, 0x0#32)] [] 0x1004#32 = true := by decide

theorem test_xori :
    gives32 (start32 [(6, 0x12345678#32)] [] 0x1000#32) 0x0FF34293 [(5, 0x12345687#32)] [] 0x1004#32 = true := by decide

theorem test_ori :
    gives32 (start32 [(6, 0x12345678#32)] [] 0x1000#32) 0x80036293 [(5, 0xFFFFFE78#32)] [] 0x1004#32 = true := by decide

theorem test_andi :
    gives32 (start32 [(6, 0x12345678#32)] [] 0x1000#32) 0xFF037293 [(5, 0x12345670#32)] [] 0x1004#32 = true := by decide

theorem test_slli :
    gives32 (start32 [(6, 0x12345678#32)] [] 0x1000#32) 0x00431293 [(5, 0x23456780#32)] [] 0x1004#32 = true := by decide

theorem test_srli :
    gives32 (start32 [(6, 0x87654321#32)] [] 0x1000#32) 0x00435293 [(5, 0x8765432#32)] [] 0x1004#32 = true := by decide

theorem test_srai :
    gives32 (start32 [(6, 0x87654321#32)] [] 0x1000#32) 0x40435293 [(5, 0xF8765432#32)] [] 0x1004#32 = true := by decide

theorem test_add32 :
    gives32 (start32 [(6, 0xFFFFFFFF#32), (7, 0x1#32)] [] 0x1000#32) 0x007302B3 [(5, 0x0#32)] [] 0x1004#32 = true ∧
    gives32 (start32 [(5, 0x40000000#32)] [] 0x1000#32) 0x005282B3 [(5, 0x80000000#32)] [] 0x1004#32 = true := by decide

theorem test_sub32 :
    gives32 (start32 [(6, 0x0#32), (7, 0x1#32)] [] 0x1000#32) 0x407302B3 [(5, 0xFFFFFFFF#32)] [] 0x1004#32 = true := by decide

theorem test_sll :
    gives32 (start32 [(6, 0x12345678#32), (7, 0x24#32)] [] 0x1000#32) 0x007312B3 [(5, 0x23456780#32)] [] 0x1004#32 = true := by decide

theorem test_slt :
    gives32 (start32 [(6, 0xFFFFFFFF#32), (7, 0x1#32)] [] 0x1000#32) 0x007322B3 [(5, 0x1#32)] [] 0x1004#32 = true ∧
    gives32 (start32 [(6, 0x1#32), (7, 0xFFFFFFFF#32)] [] 0x1000#32) 0x007322B3 [(5, 0x0#32)] [] 0x1004#32 = true := by decide

theorem test_sltu :
    gives32 (start32 [(6, 0xFFFFFFFF#32), (7, 0x1#32)] [] 0x1000#32) 0x007332B3 [(5, 0x0#32)] [] 0x1004#32 = true ∧
    gives32 (start32 [(6, 0x1#32), (7, 0xFFFFFFFF#32)] [] 0x1000#32) 0x007332B3 [(5, 0x1#32)] [] 0x1004#32 = true := by decide

theorem test_xor32 :
    gives32 (start32 [(6, 0xFF00FF00#32), (7, 0xFF00FF0#32)] [] 0x1000#32) 0x007342B3 [(5, 0xF0F0F0F0#32)] [] 0x1004#32 = true := by decide

theorem test_srl32 :
    gives32 (start32 [(6, 0x87654321#32), (7, 0x3F#32)] [] 0x1000#32) 0x007352B3 [(5, 0x1#32)] [] 0x1004#32 = true := by decide

theorem test_sra32 :
    gives32 (start32 [(6, 0x87654321#32), (7, 0x3F#32)] [] 0x1000#32) 0x407352B3 [(5, 0xFFFFFFFF#32)] [] 0x1004#32 = true := by decide

theorem test_or32 :
    gives32 (start32 [(6, 0xFF00FF00#32), (7, 0xFF00FF0#32)] [] 0x1000#32) 0x007362B3 [(5, 0xFFF0FFF0#32)] [] 0x1004#32 = true := by decide

theorem test_and32 :
    gives32 (start32 [(6, 0xFF00FF00#32), (7, 0xFF00FF0#32)] [] 0x1000#32) 0x007372B3 [(5, 0xF000F00#32)] [] 0x1004#32 = true := by decide

theorem test_fence :
    faults32 (start32 [] [] 0x1000#32) 0x0FF0000F (.unimplemented 0x0FF0000F) = true ∧
    faults32 (start32 [] [] 0x1000#32) 0x0000200F (.illegalInstruction 0x0000200F) = true := by decide

theorem test_fence_i :
    faults32 (start32 [] [] 0x1000#32) 0x0000100F (.unimplemented 0x0000100F) = true := by decide

theorem test_ecall :
    faults32 (start32 [] [] 0x1000#32) 0x00000073 (.unimplemented 0x00000073) = true := by decide

theorem test_ebreak :
    faults32 (start32 [] [] 0x1000#32) 0x00100073 (.unimplemented 0x00100073) = true ∧
    faults32 (start32 [] [] 0x1000#32) 0x30200073 (.illegalInstruction 0x30200073) = true := by decide

theorem test_mul :
    gives32 (start32 [(6, 0x7#32), (7, 0xFFFFFFFD#32)] [] 0x1000#32) 0x027302B3 [(5, 0xFFFFFFEB#32)] [] 0x1004#32 = true := by decide

theorem test_mulh :
    gives32 (start32 [(6, 0x80000000#32), (7, 0x7FFFFFFF#32)] [] 0x1000#32) 0x027312B3 [(5, 0xC0000000#32)] [] 0x1004#32 = true := by decide

theorem test_mulhsu :
    gives32 (start32 [(6, 0xFFFFFFFF#32), (7, 0xFFFFFFFF#32)] [] 0x1000#32) 0x027322B3 [(5, 0xFFFFFFFF#32)] [] 0x1004#32 = true ∧
    gives32 (start32 [(6, 0x80000000#32), (7, 0xFFFFFFFF#32)] [] 0x1000#32) 0x027322B3 [(5, 0x80000000#32)] [] 0x1004#32 = true := by decide

theorem test_mulhu :
    gives32 (start32 [(6, 0xFFFFFFFF#32), (7, 0xFFFFFFFF#32)] [] 0x1000#32) 0x027332B3 [(5, 0xFFFFFFFE#32)] [] 0x1004#32 = true := by decide

theorem test_div :
    gives32 (start32 [(6, 0x14#32), (7, 0xFFFFFFFA#32)] [] 0x1000#32) 0x027342B3 [(5, 0xFFFFFFFD#32)] [] 0x1004#32 = true ∧
    gives32 (start32 [(6, 0x80000000#32), (7, 0xFFFFFFFF#32)] [] 0x1000#32) 0x027342B3 [(5, 0x80000000#32)] [] 0x1004#32 = true := by decide

theorem test_divu :
    gives32 (start32 [(6, 0x14#32), (7, 0x0#32)] [] 0x1000#32) 0x027352B3 [(5, 0xFFFFFFFF#32)] [] 0x1004#32 = true ∧
    gives32 (start32 [(6, 0xFFFFFFEC#32), (7, 0x6#32)] [] 0x1000#32) 0x027352B3 [(5, 0x2AAAAAA7#32)] [] 0x1004#32 = true := by decide

theorem test_rem :
    gives32 (start32 [(6, 0xFFFFFFEC#32), (7, 0x6#32)] [] 0x1000#32) 0x027362B3 [(5, 0xFFFFFFFE#32)] [] 0x1004#32 = true ∧
    gives32 (start32 [(6, 0x80000000#32), (7, 0xFFFFFFFF#32)] [] 0x1000#32) 0x027362B3 [(5, 0x0#32)] [] 0x1004#32 = true := by decide

theorem test_remu :
    gives32 (start32 [(6, 0x14#32), (7, 0x0#32)] [] 0x1000#32) 0x027372B3 [(5, 0x14#32)] [] 0x1004#32 = true ∧
    gives32 (start32 [(6, 0x80000000#32), (7, 0xFFFFFFFF#32)] [] 0x1000#32) 0x027372B3 [(5, 0x80000000#32)] [] 0x1004#32 = true := by decide

/-- WFI, then a step with `wake` false and one with `wake` true (45_misc_mem_system.md R199). -/
theorem test_wfi :
    (after 1 ((start32 [] [] 0x1000#32).withFetchWord 32 0x10500073)).map (fun t => (t.waiting, t.rvl32.pc)) =
      some (true, 0x1004#32) ∧
    (after 1 { start32 [] [] 0x1004#32 with waiting := true, wake := [false] }).map (fun t => (t.waiting, t.rvl32.pc)) =
      some (true, 0x1004#32) ∧
    (after 1 { start32 [] [] 0x1004#32 with waiting := true, wake := [true] }).map (fun t => (t.waiting, t.rvl32.pc)) =
      some (false, 0x1004#32) := by decide

/-- No CSR exists on the baseline machine (10_state.md R30, R31). -/
theorem test_csr_absent :
    faults32 (start32 [(6, 0xFF#32)] [] 0x1000#32) 0x003312F3 (.undefinedCsr 3) ∧
    faults32 (start32 [] [] 0x1000#32) 0x03F022F3 (.undefinedCsr 63) ∧
    faults32 (start32 [] [] 0x1000#32) 0x043312F3 (.illegalInstruction 0x043312F3) := by decide

/-- A platform whose CSR 3 is storage holding `0xF0`, the step's `x[rd]` and CSR 3 afterwards. -/
def csr3 (w : Nat) (regs : List (Reg32 × Word32)) (rd : Reg32) : Option (Word32 × CsrCell) :=
  (after 1 ({ start32 regs [] 0x1000#32 with csrs := State.reset.csrs.set 3 (.storage 0xF0#32) }.withFetchWord 32 w)).map
    fun t => (t.rvl32.x rd, t.csr 3#6)

theorem test_csrrw : csr3 0x003312F3 [(6, 0x0F#32)] 5 = some (0xF0#32, .storage 0x0F#32) ∧
    csr3 0x00331373 [(6, 0x0F#32)] 6 = some (0xF0#32, .storage 0x0F#32) := by decide
theorem test_csrrs : csr3 0x003322F3 [(6, 0x0F#32)] 5 = some (0xF0#32, .storage 0xFF#32) ∧
    csr3 0x003022F3 [] 5 = some (0xF0#32, .storage 0xF0#32) := by decide
theorem test_csrrc : csr3 0x003332F3 [(6, 0x30#32)] 5 = some (0xF0#32, .storage 0xC0#32) := by decide
theorem test_csrrwi : csr3 0x003FD2F3 [] 5 = some (0xF0#32, .storage 0x1F#32) := by decide
theorem test_csrrsi : csr3 0x003FE2F3 [] 5 = some (0xF0#32, .storage 0xFF#32) := by decide
theorem test_csrrci : csr3 0x003872F3 [] 5 = some (0xF0#32, .storage 0xE0#32) := by decide

/-- A CSR 3 whose write clears the bits written as one and copies the old value to CSR 4, read without its bit 4 (10_state.md
R30, R31; worked by hand). -/
theorem test_csr_functions :
    let w1c : CsrCell := .supplied 0xF0#32 (.and (.held 3#6) (.const 0xFFFFFFEF#32))
      [(3#6, .and (.held 3#6) (.not .written)), (4#6, .held 3#6)]
    let s := { start32 [(6, 0x30#32)] [] 0x1000#32 with csrs := (State.reset.csrs.set 3 w1c).set 4 (.storage 0#32) }
    (after 1 (s.withFetchWord 32 0x003312F3)).map (fun t => (t.rvl32.x 5, CsrCell.held (t.csr 3#6), t.csr 4#6, t.csr 5#6)) =
      some (0xE0#32, 0xC0#32, .storage 0xF0#32, .absent) := by decide

/-! ### One step: V16 -/

theorem test_and16 :
    gives16 (start16 [(3, 0xFF00#16), (4, 0xFF0#16)] [] 0x100#16) 0x3450 [(5, 0xF00#16)] [] 0x102#16 = true ∧
    faults16 (start16 [(3, 0xFF00#16)] [] 0x100#16) 0x3050 (.illegalInstruction 0x3050) = true := by decide

theorem test_or16 :
    gives16 (start16 [(3, 0xFF00#16), (4, 0xFF0#16)] [] 0x100#16) 0x3451 [(5, 0xFFF0#16)] [] 0x102#16 = true := by decide

theorem test_xor16 :
    gives16 (start16 [(3, 0xFF00#16), (4, 0xFF0#16)] [] 0x100#16) 0x3452 [(5, 0xF0F0#16)] [] 0x102#16 = true := by decide

theorem test_not16 :
    gives16 (start16 [(3, 0xFF00#16)] [] 0x100#16) 0x3052 [(5, 0xFF#16)] [] 0x102#16 = true := by decide

theorem test_srl16 :
    gives16 (start16 [(3, 0x8421#16), (4, 0x4#16)] [] 0x100#16) 0x3453 [(5, 0x842#16)] [] 0x102#16 = true ∧
    gives16 (start16 [(3, 0x8421#16), (4, 0xFFFC#16)] [] 0x100#16) 0x3453 [(5, 0x4210#16)] [] 0x102#16 = true := by decide

theorem test_sra16 :
    gives16 (start16 [(3, 0x8421#16), (4, 0x4#16)] [] 0x100#16) 0x3454 [(5, 0xF842#16)] [] 0x102#16 = true ∧
    gives16 (start16 [(3, 0x8421#16), (4, 0xFFFC#16)] [] 0x100#16) 0x3454 [(5, 0x421F#16)] [] 0x102#16 = true := by decide

theorem test_swp16 :
    gives16 (start16 [(3, 0x1234#16)] [] 0x100#16) 0x3054 [(5, 0x3412#16)] [] 0x102#16 = true := by decide

theorem test_add16 :
    gives16 (start16 [(3, 0x7FFF#16), (4, 0x1#16)] [] 0x100#16) 0x3455 [(5, 0x8000#16)] [] 0x102#16 = true := by decide

theorem test_sub16 :
    gives16 (start16 [(3, 0x0#16), (4, 0x1#16)] [] 0x100#16) 0x3456 [(5, 0xFFFF#16)] [] 0x102#16 = true := by decide

theorem test_jal16 :
    gives16 (start16 [] [] 0x10#16) 0x8017 [(1, 0x12#16)] [] 0xFF10#16 = true ∧
    gives16 (start16 [] [] 0x100#16) 0xF807 [] [] 0xF0#16 = true := by decide

theorem test_li16 :
    gives16 (start16 [] [] 0x100#16) 0x8038 [(3, 0xFF80#16)] [] 0x102#16 = true := by decide

theorem test_lui16 :
    gives16 (start16 [(3, 0xFFF0#16)] [] 0x100#16) 0x1239 [(3, 0x12F0#16)] [] 0x102#16 = true := by decide

theorem test_auipc16 :
    gives16 (start16 [(3, 0x34#16)] [] 0x146#16) 0x023A [(3, 0x334#16)] [] 0x148#16 = true ∧
    gives16 (start16 [(3, 0x0#16)] [] 0xFFFE#16) 0x803A [(3, 0x7F00#16)] [] 0x0#16 = true := by decide

theorem test_lw16 :
    gives16 (start16 [(8, 0x2000#16)] [(0x2000, 0x80#8), (0x2001, 0xFF#8), (0x2002, 0x34#8), (0x2003, 0x12#8), (0x2004, 0x7F#8)] 0x100#16) 0x823B [(3, 0x1234#16)] [] 0x102#16 = true ∧
    faults16 (start16 [(8, 0x2000#16)] [(0x2000, 0x80#8), (0x2001, 0xFF#8), (0x2002, 0x34#8), (0x2003, 0x12#8), (0x2004, 0x7F#8)] 0x100#16) 0x813B (.misalignedAccess 0x2001) = true := by decide

theorem test_sw16 :
    gives16 (start16 [(1, 0x300#16), (2, 0x7FF6#16)] [] 0x100#16) 0x281C [] [(0x7FFE, 0x00#8), (0x7FFF, 0x03#8)] 0x102#16 = true ∧
    gives16 (start16 [(3, 0x1234#16), (2, 0xFFF1#16)] [] 0x100#16) 0x2F3C [] [(0x0, 0x34#8), (0x1, 0x12#8)] 0x102#16 = true := by decide

theorem test_lb16 :
    gives16 (start16 [(8, 0x2000#16)] [(0x2000, 0x80#8), (0x2001, 0xFF#8), (0x2002, 0x34#8), (0x2003, 0x12#8), (0x2004, 0x7F#8)] 0x100#16) 0x803D [(3, 0xFF80#16)] [] 0x102#16 = true ∧
    gives16 (start16 [(8, 0x2000#16)] [(0x2000, 0x80#8), (0x2001, 0xFF#8), (0x2002, 0x34#8), (0x2003, 0x12#8), (0x2004, 0x7F#8)] 0x100#16) 0x843D [(3, 0x7F#16)] [] 0x102#16 = true := by decide

theorem test_sb16 :
    gives16 (start16 [(3, 0x1234#16), (2, 0xFFF8#16)] [] 0x100#16) 0x2F3E [] [(0x7, 0x34#8)] 0x102#16 = true := by decide

theorem test_jalr16 :
    gives16 (start16 [(1, 0x400#16)] [] 0x100#16) 0x101F [(1, 0x102#16)] [] 0x400#16 = true ∧
    faults16 (start16 [(1, 0x301#16)] [] 0x100#16) 0x100F (.misalignedFetch 0x0301) = true := by decide

theorem test_ifeq16 :
    gives16 (start16 [(3, 0x5#16), (4, 0x5#16)] [] 0x100#16) 0x413F [] [] 0x102#16 = true ∧
    gives16 (start16 [(3, 0xFFFF#16), (4, 0x1#16)] [] 0x100#16) 0x413F [] [] 0x104#16 = true := by decide

theorem test_ifne16 :
    gives16 (start16 [(3, 0x5#16), (4, 0x5#16)] [] 0x100#16) 0x423F [] [] 0x104#16 = true ∧
    gives16 (start16 [(3, 0xFFFF#16), (4, 0x1#16)] [] 0x100#16) 0x423F [] [] 0x102#16 = true := by decide

theorem test_iflt16 :
    gives16 (start16 [(3, 0xFFFF#16), (4, 0x1#16)] [] 0x100#16) 0x433F [] [] 0x102#16 = true ∧
    gives16 (start16 [(3, 0x1#16), (4, 0xFFFF#16)] [] 0x100#16) 0x433F [] [] 0x104#16 = true := by decide

theorem test_ifge16 :
    gives16 (start16 [(3, 0xFFFF#16), (4, 0x1#16)] [] 0x100#16) 0x443F [] [] 0x104#16 = true ∧
    gives16 (start16 [(3, 0x5#16), (4, 0x5#16)] [] 0x100#16) 0x443F [] [] 0x102#16 = true := by decide

theorem test_ifltu16 :
    gives16 (start16 [(3, 0xFFFF#16), (4, 0x1#16)] [] 0x100#16) 0x453F [] [] 0x104#16 = true ∧
    gives16 (start16 [(3, 0x1#16), (4, 0xFFFF#16)] [] 0x100#16) 0x453F [] [] 0x102#16 = true := by decide

theorem test_ifgeu16 :
    gives16 (start16 [(3, 0xFFFF#16), (4, 0x1#16)] [] 0x100#16) 0x463F [] [] 0x102#16 = true ∧
    gives16 (start16 [(3, 0x1#16), (4, 0xFFFF#16)] [] 0x100#16) 0x463F [] [] 0x104#16 = true := by decide

theorem test_addi16 :
    gives16 (start16 [(12, 0x10#16)] [] 0x100#16) 0xC9CF [(12, 0x11#16)] [] 0x102#16 = true ∧
    gives16 (start16 [(12, 0x10#16)] [] 0x100#16) 0xCCCF [(12, 0xC#16)] [] 0x102#16 = true := by decide

theorem test_free0 :
    faults16 (start16 [] [] 0x100#16) 0xF0F0 (.illegalInstruction 0xF0F0) = true := by decide

theorem test_free1 :
    faults16 (start16 [] [] 0x100#16) 0x0001 (.illegalInstruction 0x0001) = true := by decide

theorem test_free3 :
    faults16 (start16 [] [] 0x100#16) 0x0003 (.illegalInstruction 0x0003) = true := by decide

theorem test_free8 :
    faults16 (start16 [] [] 0x100#16) 0x1208 (.illegalInstruction 0x1208) = true := by decide

theorem test_free9 :
    faults16 (start16 [] [] 0x100#16) 0xFF09 (.illegalInstruction 0xFF09) = true := by decide

theorem test_free10 :
    faults16 (start16 [] [] 0x100#16) 0x000A (.illegalInstruction 0x000A) = true := by decide

theorem test_free15 :
    faults16 (start16 [(15, 0x1#16)] [] 0x100#16) 0xF7FF (.illegalInstruction 0xF7FF) = true := by decide

/-- ADDI with the field 100 when the immediate is unsigned (48_v16_alu.md R253). -/
theorem test_addi16_unsigned :
    gives16 { start16 [(12, 0x10#16)] [] 0x100#16 with imm3Signed := false } 0xCCCF [(12, 0x14#16)] [] 0x102#16 = true := by decide

/-- `lb t0 5(zero)`, its address ordinary memory or a device by `V16_LOW_IO` (49_v16_control_memory.md R282; 10_state.md R42). The
byte is 9C: the vector's row says 9 and its result FF9C. -/
theorem test_low_io :
    gives16 (start16 [] [(5, 0x9C#8)] 0x100#16) 0x053D [(3, 0xFF9C#16)] [] 0x102#16 = true ∧
    (after 1 ((start16 [] [(5, 0x9C#8)] 0x100#16 (platform16 { baselineParams with lowIo := true })).withFetchWord 16 0x053D)).map
      (fun t => (t.v16.io, t.v16.draws, t.v16.pc)) = some ([.read 5 1], 1, 0x102#16) := by decide

/-- `lw t0 4(zero)` and `sw t0 4(zero)` (0x043B and 0x043C with rd = 3) at device addresses are each one access of two bytes
(20_memory.md R58, 10_state.md R42). -/
theorem test_low_io_word :
    let s := start16 [(3, 0xA55A#16)] [] 0x100#16 (platform16 { baselineParams with lowIo := true })
    (after 1 (s.withFetchWord 16 0x043B)).map (fun t => (t.v16.io, t.v16.draws)) = some ([.read 4 2], 2) ∧
    (after 1 (s.withFetchWord 16 0x043C)).map (fun t => (t.v16.io, t.v16.mem)) =
      some ([.write 4 [0x5A#8, 0xA5#8]], (s.withFetchWord 16 0x043C).v16.mem) := by decide

/-! ### Machine-level vectors -/

/-- A reset pc that is not aligned faults at the first step (20_memory.md R56). -/
theorem test_reset_pc_misaligned :
    (after 1 (State.start { baselineParams with rvl32 := { baselineParams.rvl32 with resetPc := 2#32 } })).map
      (fun t => t.rvl32.fault) = some (some (.misalignedFetch 2)) ∧
    (after 1 (State.start { baselineParams with
        isa := .v16, v16 := { baselineParams.v16 with resetPc := 0x101#16 } })).map
      (fun t => t.v16.fault) = some (some (.misalignedFetch 0x101)) := by decide

/-- A store to the next instruction, then its fetch, under both policies (20_memory.md R62). -/
theorem test_fetch_after_store :
    (after 2 ((start32 [(7, 0x13#32), (8, 0x1004#32)] [] 0x1000#32).withFetchWord 32 0x000423A3)).map
      (fun t => (t.rvl32.fault, t.rvl32.pc)) = some (some (.fetchAfterStore 0x1004), 0x1004#32) ∧
    (after 2 ((start32 [(7, 0x13#32), (8, 0x1004#32)] [] 0x1000#32 { baselinePlatform32 with smc := .coherent }).withFetchWord 32
      0x000423A3)).map (fun t => (t.rvl32.fault, t.rvl32.pc)) = some (none, 0x1008#32) := by decide

/-- A skipped FREE word is never fetched (49_v16_control_memory.md R269). -/
theorem test_skipped_word :
    (after 2 ((start16 [] [(0x104, 0x05#8)] 0x100#16).withFetchWord 16 0x323F)).map (fun t => (t.v16.fault, t.v16.pc)) =
      some (none, 0x106#16) ∧
    (after 2 ((start16 [] [(0x104, 0x05#8)] 0x100#16).withFetchWord 16 0x313F)).map (fun t => (t.v16.fault, t.v16.pc)) =
      some (some (.illegalInstruction 0), 0x102#16) := by decide

/-! ### Pseudo-instructions and assembly -/

/-- The words of a sequence. -/
def words (is : List Instr) : List CodeWord := is.map encode

theorem test_pseudo_rvl32 :
    words (pseudoLi 5 0x12345678#32) = [.rvl32 0x123452B7#32, .rvl32 0x67828293#32] ∧
    words (pseudoLi 5 0x7FFFF800#32) = [.rvl32 0x800002B7#32, .rvl32 0x80028293#32] ∧
    words (pseudoLa 10 0x4000#32 0x0FF8#32) = [.rvl32 0xFFFFD517#32, .rvl32 0xFF850513#32] ∧
    (pseudoJ 0x100#32 0x140#32).map words = some [.rvl32 0x0001006F#32] ∧
    words (pseudoJr 1) = [.rvl32 0x00008067#32] ∧
    (pseudoCall 0x1000#32 0x3A7C#32).map words = some [.rvl32 0x00003317#32, .rvl32 0xE9F300E7#32] ∧
    (pseudoCall 0x4000#32 0x0FF8#32).map words = some [.rvl32 0xFFFFD317#32, .rvl32 0xFFE300E7#32] := by decide

/-- 49_v16_control_memory.md R285 to R287; 95_test_vectors.md L1.3 to L1.5. -/
theorem test_pseudo_v16 :
    words pseudoNop16 = [.v16 0x0005#16] ∧ words (pseudoLi16 3 0x12F0#16) = [.v16 0xF038#16, .v16 0x1239#16] ∧
    words (pseudoLa16 3 0x0144#16 0x0334#16) = [.v16 0x3438#16, .v16 0x023A#16] ∧
    words (pseudoMv16 14 12) = [.v16 0xC0E5#16] ∧ words (pseudoIfGt16 3 4) = [.v16 0x334F#16] ∧
    words (pseudoIfGtu16 3 4) = [.v16 0x354F#16] ∧ words (pseudoIfLe16 3 4) = [.v16 0x344F#16] ∧
    words (pseudoIfLeu16 3 4) = [.v16 0x364F#16] ∧ words (pseudoNot16 3) = [.v16 0x3032#16] ∧
    words (pseudoIfNe16 3) = [.v16 0x023F#16] ∧ words (pseudoJr16 1) = [.v16 0x100F#16] ∧
    (pseudoJ16 0x0522#16 0x0528#16).map words = some [.v16 0x0307#16] ∧
    words (pseudoAsh16 12 12 3) = [.v16 0xC3C4#16] ∧
    (pseudoBranch16 .ne 3 4 0x0204#16 0x0216#16).map words = some [.v16 0x423F#16, .v16 0x0807#16] := by decide

/-- Lines of 95_test_vectors.md part L1 (30_encoding.md R120 to R123). -/
theorem test_assembly :
    Machine.Instr.line 0x418 (.v16Lw 8 2 0#4) = some "lw s0 0(sp)" ∧
    Machine.Instr.line 0x402 (.v16Sub 2 2 3) = some "sub sp sp t0" ∧ Machine.Instr.line 0 (.v16Free0 0 0) = none := by decide


/-! ### Witnesses: a concrete state and operands for the hypotheses of each statement -/

/-- A platform without any valid access. -/
def closed : Platform := { windows := [], devices := [], misaligned := .fault, smc := .refuse }

/-- The baseline platforms with misaligned accesses performed, or with coherent fetch, or with devices at 0 to 15. -/
def bytewise32 : Platform := { baselinePlatform32 with misaligned := .bytewise }
def bytewise16 : Platform := { baselinePlatform16 with misaligned := .bytewise }
def coherent32 : Platform := { baselinePlatform32 with smc := .coherent }
def coherent16 : Platform := { baselinePlatform16 with smc := .coherent }
def devices32 : Platform := { baselinePlatform32 with devices := [lowIoRange] }
def devices16 : Platform := { baselinePlatform16 with devices := [lowIoRange] }

theorem witness_DecodeOfEncode :
    (Instr.addi 31 0 0x800#12).WellFormed ∧ (Instr.csrrw 0 31 63#6).WellFormed ∧ (Instr.v16And 0 0 1).WellFormed ∧
    (Instr.v16Li 15 0#8).WellFormed ∧ (Instr.v16Free15 15 15).WellFormed := by decide

theorem witness_EncodeOfDecode :
    decode (.rvl32 0xFFFFF06F#32) = .ok (.jal 0 0xFFFFF#20) ∧ decode (.v16 0xFFFF#16) = .ok (.v16Addi 15 15 7#3) := by decide

theorem witness_ReservedWordsAreRejected :
    let s := State.reset.withFetchWord 32 0xFFFFFFFF
    s.isa = .rvl32 ∧ s.rvl32.fault = none ∧ s.waiting = false ∧ reservedWord 0xFFFFFFFF#32 = true ∧
    s.rvl32.fetch = .ok (0xFFFFFFFF#32, s.rvl32) := by decide

theorem witness_FreeWordsExactly :
    let s := State.reset.withFetchWord 16 0xF7FF
    s.isa = .v16 ∧ s.v16.fault = none ∧ freeWord 0xF7FF#16 = true ∧ s.v16.fetch = .ok (0xF7FF#16, s.v16) := by decide

theorem witness_InstructionBytes : [0x13#8, 0x00#8, 0x00#8].length < 4 ∧ [0x05#8].length < 2 := by decide

theorem witness_StepRunsDecodedInstruction32 :
    let s := start32 [] [(0xFFFFFFFC, 0x13#8), (0xFFFFFFFD, 0x05#8), (0xFFFFFFFE, 0x50#8), (0xFFFFFFFF, 0x80#8)] 0xFFFFFFFC#32
    s.isa = .rvl32 ∧ s.rvl32.fault = none ∧ s.waiting = false ∧ s.rvl32.checkFetch = none ∧ s.rvl32.OrdinaryAt s.rvl32.pc 4 ∧
    (∀ k, k < 4 → s.rvl32.byteAt s.rvl32.pc k = (0x80500513#32).extractLsb' (8 * k) 8) ∧
    (Instr.addi 10 0 0x805#12).WellFormed ∧ decode (.rvl32 0x80500513#32) = .ok (.addi 10 0 0x805#12) := by
  unfold Hart.OrdinaryAt; decide

theorem witness_StepRunsDecodedInstruction16 :
    let s := start16 [] [(0xFFFE, 0xD5#8), (0xFFFF, 0xCD#8)] 0xFFFE#16
    s.isa = .v16 ∧ s.v16.fault = none ∧ s.v16.checkFetch = none ∧ s.v16.OrdinaryAt s.v16.pc 2 ∧
    (∀ k, k < 2 → s.v16.byteAt s.v16.pc k = (0xCDD5#16).extractLsb' (8 * k) 8) ∧
    (Instr.v16Add 13 12 13).WellFormed ∧ decode (.v16 0xCDD5#16) = .ok (.v16Add 13 12 13) := by
  unfold Hart.OrdinaryAt; decide

/-- Each clause on each machine: pc 3 or 1 above alignment, no valid window, the last byte of the instruction stored to. -/
theorem witness_FetchFaultsInOrder :
    (let s := start32 [] [] 0xFFFFFFFF#32
     s.isa = .rvl32 ∧ s.rvl32.fault = none ∧ s.waiting = false ∧ s.rvl32.pc.toNat % 4 ≠ 0) ∧
    (let s := start32 [] [] 0x1000#32 closed
     s.rvl32.pc.toNat % 4 = 0 ∧ s.rvl32.platform.valid .fetch s.rvl32.pc.toNat 4 = false) ∧
    (let h := { (start32 [] [] 0x1000#32).rvl32 with stored := [0x1003] }
     h.pc.toNat % 4 = 0 ∧ h.platform.valid .fetch h.pc.toNat 4 = true ∧ h.platform.smc = .refuse ∧
       ∃ a ∈ h.stored, touched h.pc 4 a) ∧
    (let s := start16 [] [] 0xFFFF#16
     s.isa = .v16 ∧ s.v16.fault = none ∧ s.v16.pc.toNat % 2 ≠ 0) ∧
    (let s := start16 [] [] 0x100#16 closed
     s.v16.pc.toNat % 2 = 0 ∧ s.v16.platform.valid .fetch s.v16.pc.toNat 2 = false) ∧
    (let h := { (start16 [] [] 0x100#16).v16 with stored := [0x101] }
     h.pc.toNat % 2 = 0 ∧ h.platform.valid .fetch h.pc.toNat 2 = true ∧ h.platform.smc = .refuse ∧
       ∃ a ∈ h.stored, touched h.pc 2 a) := by
  refine ⟨by decide, by decide, ⟨by decide, by decide, by decide, 0x1003, by decide, 3, by decide, by decide⟩, by decide,
    by decide, by decide, by decide, by decide, 0x101, by decide, 1, by decide, by decide⟩

theorem witness_TerminalFault :
    let s := State.reset.withFetchWord 32 0x00000073
    ∃ t, step s = .next t ∧ s.faultNow = none ∧ t.faultNow ≠ none := ⟨_, rfl, by decide, by decide⟩

theorem witness_WaitForInterrupt :
    let s := fun w => { State.reset with waiting := true, wake := w }
    ((0x10500173#32).extractLsb' 0 7 = 0b1110011#7 ∧ (0x10500173#32).extractLsb' 12 3 = 0b000#3 ∧
      (0x10500173#32).extractLsb' 25 7 = 0b0001000#7 ∧ 0x10500173#32 ≠ 0x10500073#32) ∧
    ∀ w ∈ [[], [false, true], [true]], (s w).isa = .rvl32 ∧ (s w).rvl32.fault = none ∧ (s w).waiting = true := by decide

/-- An image with an address given twice, the last address of the space, and one that wraps to 0; both sides of the bound
15 of `V16_LOW_IO`. -/
theorem witness_StartState :
    let image : List (Nat × Byte) := [(0xFFFFFFFF, 1#8), (0xFFFFFFFF, 2#8), (0x100000000, 3#8)]
    (image = [(0xFFFFFFFF, 1#8)] ++ (0xFFFFFFFF, 2#8) :: [(0x100000000, 3#8)] ∧ 0xFFFFFFFF < 2 ^ 32 ∧
      ∀ c ∈ [(0x100000000, 3#8)], c.1 % 2 ^ 32 ≠ 0xFFFFFFFF) ∧
    let low := (State.start { baselineParams with lowIo := true }).v16.platform
    low.isDevice 15 = true ∧ low.isDevice 16 = false ∧ (State.start baselineParams).v16.platform.isDevice 15 = false := by
  decide

theorem witness_StepKeepsInvariant :
    let s := start32 [(7, 0x12345678#32)] [(0x1000, 0xA3#8), (0x1001, 0x23#8)] 0x1000#32
    s.inv = true ∧ ∃ t, step s = .next t ∧ t.rvl32.mem.read 0 = 0x78#8 := ⟨by decide, _, rfl, by decide⟩

theorem witness_StartMeetsInvariant :
    let p := { baselineParams with
      rvl32 := { baselineParams.rvl32 with resetPc := 0xFFFFFFFC#32, regs := Vector.replicate 32 1#32 }
      v16 := { baselineParams.v16 with resetPc := 0xFFFE#16 } }
    p.rvl32.resetPc.toNat % 4 = 0 ∧ p.v16.resetPc.toNat % 2 = 0 := by decide

/-- Each clause: a step of each machine, and two states that agree on one machine only. -/
theorem witness_MachinesAreSeparate :
    (let s := State.reset.withFetchWord 32 0x00100293
     let s' := { s with v16 := { s.v16 with pc := 2#16 }, imm3Signed := false }
     s.isa = .rvl32 ∧ s'.isa = .rvl32 ∧ s'.rvl32 = s.rvl32 ∧ s' ≠ s ∧ ∃ t t', step s = .next t ∧ step s' = .next t') ∧
    (let s := State.reset.withFetchWord 16 0xC9CF
     let s' := { s with rvl32 := { s.rvl32 with pc := 4#32 }, waiting := true }
     s.isa = .v16 ∧ s'.isa = .v16 ∧ s'.v16 = s.v16 ∧ s'.imm3Signed = s.imm3Signed ∧ s' ≠ s ∧
       ∃ t t', step s = .next t ∧ step s' = .next t') :=
  ⟨⟨by decide, by decide, by decide, by decide, _, _, rfl, rfl⟩,
    ⟨by decide, by decide, by decide, by decide, by decide, _, _, rfl, rfl⟩⟩

theorem witness_ParametersNeverChange : ∃ t, step (State.reset.withFetchWord 32 0x003312F3) = .next t := ⟨_, rfl⟩

theorem witness_RegistersWritten :
    (∃ t, exec (.add 31 1 2) (start32 [(1, 5#32)] [] 0#32) = .next t ∧ t.rvl32.x 31 = 5#32) ∧
    ∃ t, exec (.v16Add 15 1 2) (start16 [(1, 5#16)] [] 0#16) = .next t ∧ t.v16.x 15 = 5#16 :=
  ⟨⟨_, rfl, by decide⟩, _, rfl, by decide⟩

/-- Two states that differ in a register that ADD does not read. -/
theorem witness_RegistersRead :
    let s := start32 [(1, 5#32)] [] 0#32
    let regs32 := s.rvl32.regs.set 3 9#32
    let s' := { s with rvl32 := { s.rvl32 with regs := regs32 }, v16 := { s.v16 with regs := s.v16.regs } }
    (∀ r ∈ reads32 (.add 31 1 2), s'.rvl32.x r = s.rvl32.x r) ∧ (∀ r ∈ reads16 (.add 31 1 2), s'.v16.x r = s.v16.x r) ∧
    s'.rvl32.x 3 ≠ s.rvl32.x 3 ∧ ∃ t t', exec (.add 31 1 2) s = .next t ∧ exec (.add 31 1 2) s' = .next t' ∧
      s.rvl32.fault = none ∧ t.rvl32.fault = none :=
  ⟨by decide, by decide, by decide, _, _, rfl, rfl, by decide, by decide⟩

/-- At the last instruction address of each space. -/
theorem witness_SequentialPc :
    (let s := start32 [] [] 0xFFFFFFFC#32
     setsPc (.addi 1 0 1#12) = false ∧ s.rvl32.fault = none ∧
       ∃ t, exec (.addi 1 0 1#12) s = .next t ∧ t.rvl32.fault = none ∧ t.rvl32.pc = 0#32) ∧
    let s := start16 [] [] 0xFFFE#16
    setsPc (.v16Sw 1 0 0#4) = false ∧ s.v16.fault = none ∧
      ∃ t, exec (.v16Sw 1 0 0#4) s = .next t ∧ t.v16.fault = none ∧ t.v16.pc = 0#16 :=
  ⟨⟨by decide, by decide, _, rfl, by decide, by decide⟩, by decide, by decide, _, rfl, by decide, by decide⟩

/-- A store of four bytes at the end of memory, and an address outside its span. -/
theorem witness_MemoryChangesOnlyAtStores :
    let s := start32 [(7, 0xFFFFFFFF#32)] [] 0#32
    Memory.wf 32 s.rvl32.mem = true ∧ Memory.wf 16 s.v16.mem = true ∧
    (∃ t, exec (.sw 7 0 0xFFC#12) s = .next t ∧ t.rvl32.mem.read 0xFFFFFFFC = 0xFF#8) ∧
    ∀ addr width, storeSpan32 s.rvl32 (.sw 7 0 0xFFC#12) = some (addr, width) → ¬ touched addr width 0 := by
  refine ⟨by decide, by decide, ⟨_, rfl, by decide⟩, ?_⟩
  rintro addr width h ⟨k, hk, h0⟩
  have h' : some (0xFFFFFFFC#32, 4) = some (addr, width) := h
  obtain ⟨rfl, rfl⟩ := Prod.mk.inj (Option.some.inj h')
  have hk' : k = 0 ∨ k = 1 ∨ k = 2 ∨ k = 3 := by omega
  rcases hk' with rfl | rfl | rfl | rfl <;> simp at h0

/-- Both policies, and a platform where every access is valid. -/
theorem witness_FaultsRuledOut :
    (∃ t, step ((start32 [(8, 1#32)] [] 0x1000#32 bytewise32).withFetchWord 32 0x00042383) = .next t) ∧
    bytewise32.misaligned = .bytewise ∧ coherent32.smc = .coherent ∧ coherent16.smc = .coherent ∧
    (∀ a, a < 2 ^ 32 → baselinePlatform32.valid .fetch a 4 = true ∧ ∀ width ∈ [1, 2, 4],
      baselinePlatform32.valid .load a width = true ∧ baselinePlatform32.valid .store a width = true) ∧
    (∃ t, step ((start16 [(8, 1#16)] [] 0x100#16 bytewise16).withFetchWord 16 0x803B) = .next t) ∧
    ∀ a, a < 2 ^ 16 → baselinePlatform16.valid .fetch a 2 = true ∧ ∀ width ∈ [1, 2],
      baselinePlatform16.valid .load a width = true ∧ baselinePlatform16.valid .store a width = true := by
  refine ⟨⟨_, rfl⟩, rfl, rfl, rfl, fun a ha => ?_, ⟨_, rfl⟩, fun a ha => ?_⟩
  · have : a ≤ 4294967295 := by omega
    simp [Platform.valid, baselinePlatform32, openWindows, this]
  · have : a ≤ 65535 := by omega
    simp [Platform.valid, baselinePlatform16, openWindows, this]

/-- Each width at the highest address it has. -/
theorem witness_LoadResults32 :
    let h := (start32 [] [(0xFFFFFFFF, 0x80#8)] 0x1000#32).rvl32
    (h.AccessOk .load (address32 h 0 0xFFF#12) 1 ∧ h.OrdinaryAt (address32 h 0 0xFFF#12) 1) ∧
    (h.AccessOk .load (address32 h 0 0xFFE#12) 2 ∧ h.OrdinaryAt (address32 h 0 0xFFE#12) 2) ∧
    h.AccessOk .load (address32 h 0 0xFFC#12) 4 ∧ h.OrdinaryAt (address32 h 0 0xFFC#12) 4 := by
  unfold Hart.AccessOk Hart.OrdinaryAt; decide

theorem witness_StoreResults32 :
    let h := (start32 [] [(0xFFFFFFFF, 0x80#8)] 0x1000#32).rvl32
    Memory.wf 32 h.mem = true ∧ (h.AccessOk .store (address32 h 0 0xFFF#12) 1 ∧ h.OrdinaryAt (address32 h 0 0xFFF#12) 1) ∧
    (h.AccessOk .store (address32 h 0 0xFFE#12) 2 ∧ h.OrdinaryAt (address32 h 0 0xFFE#12) 2) ∧
    h.AccessOk .store (address32 h 0 0xFFC#12) 4 ∧ h.OrdinaryAt (address32 h 0 0xFFC#12) 4 := by
  unfold Hart.AccessOk Hart.OrdinaryAt; decide

theorem witness_LoadResults16 :
    let h := (start16 [(3, 0xFFF0#16)] [(0xFFFF, 0x80#8)] 0x100#16).v16
    (h.AccessOk .load (address16 h 3 15#4) 1 ∧ h.OrdinaryAt (address16 h 3 15#4) 1) ∧
    h.AccessOk .load (address16 h 3 14#4) 2 ∧ h.OrdinaryAt (address16 h 3 14#4) 2 := by
  unfold Hart.AccessOk Hart.OrdinaryAt; decide

theorem witness_StoreResults16 :
    let h := (start16 [(3, 0xFFF0#16)] [(0xFFFF, 0x80#8)] 0x100#16).v16
    Memory.wf 16 h.mem = true ∧ (h.AccessOk .store (address16 h 3 15#4) 1 ∧ h.OrdinaryAt (address16 h 3 15#4) 1) ∧
    h.AccessOk .store (address16 h 3 14#4) 2 ∧ h.OrdinaryAt (address16 h 3 14#4) 2 := by
  unfold Hart.AccessOk Hart.OrdinaryAt; decide

/-- A misaligned address for each width above one, and an aligned one on a platform where nothing is valid; the fault clause
holds at address 3 for widths 2 and 4 and at address 2 for width 4; under `bytewise` the last byte of each width, the first
past the last valid address, is not valid. -/
theorem witness_DataFaultsInOrder :
    (let h := (start32 [] [] 0x1000#32).rvl32
     h.platform.misaligned = .fault ∧ (address32 h 0 3#12).toNat % 2 ≠ 0 ∧ (address32 h 0 2#12).toNat % 4 ≠ 0) ∧
    (let h := (start32 [] [] 0x1000#32 closed).rvl32
     ∀ width ∈ [1, 2, 4], (address32 h 0 4#12).toNat % width = 0 ∧
       h.platform.valid .load (address32 h 0 4#12).toNat width = false ∧
       h.platform.valid .store (address32 h 0 4#12).toNat width = false) ∧
    (∀ wa ∈ [(2, 0xFF#12), (4, 0xFD#12)], ∀ kind ∈ [AccessKind.load, .store],
      let p := { closed with misaligned := .bytewise, windows := [⟨kind, 1, 0, 0xFF⟩] }
      let addr := address32 (start32 [] [] 0x1000#32 p).rvl32 0 wa.2
      p.misaligned = .bytewise ∧ addr.toNat % wa.1 ≠ 0 ∧
      (∀ j, j < wa.1 - 1 → p.valid kind (addr + BitVec.ofNat 32 j).toNat 1 = true) ∧
      p.valid kind (addr + BitVec.ofNat 32 (wa.1 - 1)).toNat 1 = false) ∧
    (let h := (start16 [] [] 0x100#16).v16
     h.platform.misaligned = .fault ∧ (address16 h 0 15#4).toNat % 2 ≠ 0) ∧
    (let h := (start16 [] [] 0x100#16 closed).v16
     ∀ width ∈ [1, 2], (address16 h 0 2#4).toNat % width = 0 ∧
       h.platform.valid .load (address16 h 0 2#4).toNat width = false ∧
       h.platform.valid .store (address16 h 0 2#4).toNat width = false) ∧
    let h := (start16 [] [] 0x100#16 { closed with misaligned := .bytewise }).v16
    h.platform.misaligned = .bytewise ∧ (address16 h 0 15#4).toNat % 2 ≠ 0 ∧
      ∀ kind ∈ [AccessKind.load, .store], h.platform.valid kind (address16 h 0 15#4).toNat 1 = false := by decide

/-- A word and a halfword that wrap past the end of the address space. -/
theorem witness_BytewiseAccesses :
    (let h := (start32 [] [] 0x1000#32 bytewise32).rvl32
     let addr := address32 h 0 0xFFF#12
     h.platform.misaligned = .bytewise ∧ Memory.wf 32 h.mem = true ∧ addr.toNat % 4 ≠ 0 ∧ addr.toNat % 2 ≠ 0 ∧
     h.OrdinaryAt addr 4 ∧ h.OrdinaryAt addr 2 ∧
     ∀ k, k < 4 → h.platform.valid .load (addr + BitVec.ofNat 32 k).toNat 1 = true ∧
       h.platform.valid .store (addr + BitVec.ofNat 32 k).toNat 1 = true) ∧
    let h := (start16 [(3, 0xFFF0#16)] [] 0x100#16 bytewise16).v16
    let addr := address16 h 3 15#4
    h.platform.misaligned = .bytewise ∧ Memory.wf 16 h.mem = true ∧ addr.toNat % 2 ≠ 0 ∧ h.OrdinaryAt addr 2 ∧
      ∀ k, k < 2 → h.platform.valid .load (addr + BitVec.ofNat 16 k).toNat 1 = true ∧
        h.platform.valid .store (addr + BitVec.ofNat 16 k).toNat 1 = true := by
  unfold Hart.OrdinaryAt; decide

/-- A word stored at the end of memory and read back by its last byte and its upper half; the same of V16. -/
theorem witness_MixedWidthBytes :
    (let s := start32 [(7, 0x11223344#32), (5, 0xFFFFFFFF#32), (6, 0xFFFFFFFE#32)] [] 0x1000#32
     let addr := address32 s.rvl32 0 0xFFC#12
     Memory.wf 32 s.rvl32.mem = true ∧ s.rvl32.AccessOk .store addr 4 ∧ s.rvl32.OrdinaryAt addr 4 ∧
     (∀ j, j < 4 → s.rvl32.platform.valid .load (addr + BitVec.ofNat 32 j).toNat 1 = true) ∧
     s.rvl32.platform.valid .load (addr + 2#32).toNat 2 = true ∧
     ∃ t, exec (.sw 7 0 0xFFC#12) s = .next t ∧ t.rvl32.x 5 = addr + BitVec.ofNat 32 3 ∧ t.rvl32.x 6 = addr + 2#32 ∧
       (∃ u, exec (.lbu 9 5 0#12) t = .next u) ∧ ∃ v, exec (.lhu 9 6 0#12) t = .next v) ∧
    let s := start16 [(7, 0x1234#16), (5, 0xFFFF#16)] [] 0x100#16
    let s := { s with v16 := s.v16.setX 3 0xFFFE#16 }
    let addr := address16 s.v16 3 0#4
    Memory.wf 16 s.v16.mem = true ∧ s.v16.AccessOk .store addr 2 ∧ s.v16.OrdinaryAt addr 2 ∧
    (∀ j, j < 2 → s.v16.platform.valid .load (addr + BitVec.ofNat 16 j).toNat 1 = true) ∧
    ∃ t, exec (.v16Sw 7 3 0#4) s = .next t ∧ t.v16.x 5 = addr + BitVec.ofNat 16 1 ∧ ∃ u, exec (.v16Lb 9 5 0#4) t = .next u := by
  unfold Hart.AccessOk Hart.OrdinaryAt
  refine ⟨⟨by decide, by decide, by decide, by decide, by decide, _, rfl, by decide, by decide, ⟨_, rfl⟩, _, rfl⟩,
    by decide, by decide, by decide, by decide, _, rfl, by decide, _, rfl⟩

/-- A byte stored into the last byte of the instruction fetched, under `refuse`; and under `coherent` one that makes ADDI x0 x0
0x010 of ADDI x0 x0 0 (V16: ADDI x0 x0 0 of a word at 0x300). -/
theorem witness_FetchAfterStore :
    (let s := start32 [(7, 0x01#32), (8, 0x2000#32)] [] 0x1000#32
     let addr := address32 s.rvl32 8 3#12
     s.isa = .rvl32 ∧ s.rvl32.fault = none ∧ s.waiting = false ∧ Memory.wf 32 s.rvl32.mem = true ∧
     (∃ t, exec (.sb 7 8 3#12) s = .next t ∧ t.rvl32.fault = none) ∧ (0x2000#32).toNat % 4 = 0 ∧
     s.rvl32.platform.valid .fetch (0x2000#32).toNat 4 = true ∧ s.rvl32.platform.smc = .refuse ∧
     ∃ a, touched addr 1 a ∧ touched 0x2000#32 4 a) ∧
    (let s := start32 [(7, 0x01#32), (8, 0x2000#32)] [(0x2000, 0x13#8)] 0x1000#32 coherent32
     let addr := address32 s.rvl32 8 3#12
     (∃ t, exec (.sb 7 8 3#12) s = .next t ∧ t.rvl32.fault = none) ∧ s.rvl32.platform.smc = .coherent ∧
     s.rvl32.OrdinaryAt 0x2000#32 4 ∧
     (∀ k, k < 4 →
       (∀ j, j < 1 → 0x2000#32 + BitVec.ofNat 32 k = addr + BitVec.ofNat 32 j →
         (0x01000013#32).extractLsb' (8 * k) 8 = (s.rvl32.x 7).extractLsb' (8 * j) 8) ∧
       (k ≠ 3 → (0x01000013#32).extractLsb' (8 * k) 8 = s.rvl32.byteAt 0x2000#32 k)) ∧ touched addr 1 0x2003 ∧
     (Instr.addi 0 0 16#12).WellFormed ∧ decode (.rvl32 0x01000013#32) = .ok (.addi 0 0 16#12)) ∧
    (let s := start16 [(7, 0x080F#16), (8, 0x0300#16)] [] 0x100#16
     let addr := address16 s.v16 8 0#4
     s.isa = .v16 ∧ s.v16.fault = none ∧ Memory.wf 16 s.v16.mem = true ∧
     (∃ t, exec (.v16Sw 7 8 0#4) s = .next t ∧ t.v16.fault = none) ∧ (0x300#16).toNat % 2 = 0 ∧
     s.v16.platform.valid .fetch (0x300#16).toNat 2 = true ∧ s.v16.platform.smc = .refuse ∧
     ∃ a, touched addr 2 a ∧ touched 0x300#16 2 a) ∧
    let s := start16 [(7, 0x080F#16), (8, 0x0300#16)] [] 0x100#16 coherent16
    let addr := address16 s.v16 8 0#4
    (∃ t, exec (.v16Sw 7 8 0#4) s = .next t ∧ t.v16.fault = none) ∧ s.v16.platform.smc = .coherent ∧
    s.v16.OrdinaryAt 0x300#16 2 ∧
    (∀ k, k < 2 → touched addr 2 (0x300#16 + BitVec.ofNat 16 k).toNat ∧
      ∀ j, j < 2 → 0x300#16 + BitVec.ofNat 16 k = addr + BitVec.ofNat 16 j →
        (0x080F#16).extractLsb' (8 * k) 8 = (s.v16.x 7).extractLsb' (8 * j) 8) ∧
    (Instr.v16Addi 0 0 0#3).WellFormed ∧ decode (.v16 0x080F#16) = .ok (.v16Addi 0 0 0#3) := by
  unfold Hart.OrdinaryAt
  refine ⟨⟨by decide, by decide, by decide, by decide, ⟨_, rfl, by decide⟩, by decide, by decide, by decide,
      0x2003, ⟨0, by decide, by decide⟩, 3, by decide, by decide⟩,
    ⟨⟨_, rfl, by decide⟩, by decide, by decide, by decide, ⟨0, by decide, by decide⟩, by decide, by decide⟩,
    ⟨by decide, by decide, by decide, ⟨_, rfl, by decide⟩, by decide, by decide, by decide,
      0x301, ⟨1, by decide, by decide⟩, 1, by decide, by decide⟩,
    ⟨_, rfl, by decide⟩, by decide, by decide, fun k hk => ⟨⟨k, hk, ?_⟩, ?_⟩, by decide, by decide⟩
  · rfl
  · revert k; decide

/-- Each width at the last addresses that are a device's, split ones with a byte on either side of the bound. -/
theorem witness_DeviceAccesses :
    (let h := (start32 [] [] 0x1000#32 { devices32 with misaligned := .bytewise }).rvl32
     Memory.wf 32 h.mem = true ∧
     (∀ wa ∈ [(1, 15#12), (2, 14#12), (4, 12#12)],
       (∃ k, k < wa.1 ∧ h.platform.isDevice (address32 h 0 wa.2 + BitVec.ofNat 32 k).toNat = true) ∧
       h.AccessOk .load (address32 h 0 wa.2) wa.1 ∧ h.AccessOk .store (address32 h 0 wa.2) wa.1) ∧
     ∀ wa ∈ [(2, 15#12), (4, 14#12)],
       (∃ k, k < wa.1 ∧ h.platform.isDevice (address32 h 0 wa.2 + BitVec.ofNat 32 k).toNat = true) ∧
       h.SplitOk .load (address32 h 0 wa.2) wa.1 ∧ h.SplitOk .store (address32 h 0 wa.2) wa.1) ∧
    let h := (start16 [] [] 0x100#16 { devices16 with misaligned := .bytewise }).v16
    Memory.wf 16 h.mem = true ∧
    (∀ wa ∈ [(1, 15#4), (2, 14#4)],
      (∃ k, k < wa.1 ∧ h.platform.isDevice (address16 h 0 wa.2 + BitVec.ofNat 16 k).toNat = true) ∧
      h.AccessOk .load (address16 h 0 wa.2) wa.1 ∧ h.AccessOk .store (address16 h 0 wa.2) wa.1) ∧
    (∃ k, k < 2 ∧ h.platform.isDevice (address16 h 0 15#4 + BitVec.ofNat 16 k).toNat = true) ∧
    h.SplitOk .load (address16 h 0 15#4) 2 ∧ h.SplitOk .store (address16 h 0 15#4) 2 := by
  unfold Hart.AccessOk Hart.SplitOk; decide

/-- JALR targets that are and are not multiples of 4. -/
theorem witness_JumpResults32 :
    let s := start32 [(5, 0x2000#32), (6, 0x2002#32)] [] 0x1000#32
    (BitVec.ofInt 32 ((s.rvl32.x 5).toNat + 4 * (0xFFF#12).toInt)).toNat % 4 = 0 ∧
    (BitVec.ofInt 32 ((s.rvl32.x 6).toNat + 4 * (0x7FF#12).toInt)).toNat % 4 ≠ 0 := by decide

theorem witness_DivisionIdentity :
    let s := start32 [(6, 0x80000000#32), (7, 0xFFFFFFFE#32)] [] 0x1000#32
    (5 : Reg32) ≠ 0 ∧ s.rvl32.x 7 ≠ 0#32 ∧ ¬ (s.rvl32.x 6 = 0x80000000#32 ∧ s.rvl32.x 7 = 0xFFFFFFFF#32) ∧
    (∃ t, exec (.div 5 6 7) s = .next t) ∧ (∃ t, exec (.rem 5 6 7) s = .next t) ∧
    (∃ t, exec (.divu 5 6 7) s = .next t) ∧ ∃ t, exec (.remu 5 6 7) s = .next t :=
  ⟨by decide, by decide, by decide, ⟨_, rfl⟩, ⟨_, rfl⟩, ⟨_, rfl⟩, _, rfl⟩

/-- The first and the last CSR index. -/
theorem witness_CsrStorageResults :
    let s := { State.reset with csrs := Vector.replicate 64 (.storage 0xF0#32) }
    s.csr 0#6 = .storage 0xF0#32 ∧ s.csr 63#6 = .storage 0xF0#32 := by simp [State.csr]

theorem witness_CsrAbsentFaults : State.reset.csr 0#6 = .absent ∧ State.reset.csr 63#6 = .absent := by decide

theorem witness_CsrPlatformPort :
    let s := { State.reset with csrs := Vector.replicate 64 .external }
    s.csr 0#6 = .external ∧ s.csr 63#6 = .external := by decide

theorem witness_CsrFunctionResults :
    let effect : List (BitVec 6 × CsrExpr) := [(0#6, .written), (63#6, .held 0#6), (0#6, .const 1#32)]
    let s := { State.reset with csrs := Vector.replicate 64 (.supplied 0xF0#32 (.held 63#6) effect) }
    s.csr 0#6 = .supplied 0xF0#32 (.held 63#6) effect ∧ s.csr 63#6 = .supplied 0xF0#32 (.held 63#6) effect ∧
    effect = [(0#6, .written)] ++ (63#6, .held 0#6) :: [(0#6, .const 1#32)] ∧
    (∀ p ∈ [((0#6, .written) : BitVec 6 × CsrExpr)], p.1 ≠ 63#6) ∧ ∀ p ∈ effect, p.1 ≠ 1#6 := by decide

theorem witness_AddImmediateResults16 :
    State.reset.imm3Signed = true ∧ { State.reset with imm3Signed := false }.imm3Signed = false ∧ (3#3).toNat < 4 := by decide

/-- Amounts 0, 15, -1 and -15. -/
theorem witness_ShiftResults16 :
    let s := start16 [(1, 15#16), (2, 0xFFFF#16), (3, 0xFFF1#16)] [] 0x100#16
    (∀ r ∈ ([0, 1] : List Reg16), 0 ≤ (s.v16.x r).toInt ∧ (s.v16.x r).toInt ≤ 15) ∧
    ∀ r ∈ ([2, 3] : List Reg16), -15 ≤ (s.v16.x r).toInt ∧ (s.v16.x r).toInt < 0 := by decide

/-- Amounts 16, 32767, -16 and -32768. -/
theorem witness_ShiftOutOfRange16 :
    let s := start16 [(1, 16#16), (2, 0x7FFF#16), (3, 0xFFF0#16), (4, 0x8000#16)] [] 0x100#16
    ∀ r ∈ ([1, 2, 3, 4] : List Reg16), (s.v16.x r).toInt < -15 ∨ 15 < (s.v16.x r).toInt := by decide

theorem witness_JumpResults16 :
    let s := start16 [(3, 0xFFFE#16), (4, 0x0301#16)] [] 0x100#16
    (s.v16.x 3).toNat % 2 = 0 ∧ (s.v16.x 4).toNat % 2 ≠ 0 := by decide

/-- A sum that wraps and one that just does not. -/
theorem witness_CarryTest16 :
    ∀ v ∈ [0x0001#16, 0x0000#16], ∃ t u, exec (.v16Add 12 12 13) (start16 [(12, 0xFFFF#16), (13, v)] [] 0x100#16) = .next t ∧
      exec (.v16IfLtu 12 13) t = .next u := fun _ _ => ⟨_, _, rfl, rfl⟩

/-- A symbol below and a symbol above the call, and a distance that is no multiple of 4. -/
theorem witness_CallPseudo :
    (∀ symbol ∈ [0x0FF8#32, 0x3A7C#32], (symbol - 0x1000#32).toNat % 4 = 0 ∧ symbol.toNat % 4 = 0) ∧
    (0x1002#32 - 0x1000#32).toNat % 4 ≠ 0 := by simp

/-- The bounds of the one-instruction constants. -/
theorem witness_LoadConstantPseudo :
    ∀ v ∈ [0xFFFFF800#32, 0x000007FF#32], -2048 ≤ v.toInt ∧ v.toInt ≤ 2047 := by simp

theorem witness_Constants16Pseudo :
    (15 : Reg16) ≠ 0 ∧ (1 : Reg16) ≠ 0 ∧ ∀ v ∈ [0xFF80#16, 0x007F#16], -128 ≤ v.toInt ∧ v.toInt ≤ 127 := by simp

/-- The farthest label on each side, with the comparison true and false, and the distances just outside and odd. -/
theorem witness_BranchConversion16 :
    let s := start16 [(3, 1#16)] [] 0x204#16
    s.v16.pc = 0x204#16 ∧
    (∀ label ∈ [0x304#16, 0x106#16],
      let d := (label - (0x204#16 + 2#16)).toInt; d % 2 = 0 ∧ -256 ≤ d ∧ d ≤ 254) ∧
    (∀ label ∈ [0x306#16, 0x104#16, 0x207#16],
      let d := (label - (0x204#16 + 2#16)).toInt; ¬ (d % 2 = 0 ∧ -256 ≤ d ∧ d ≤ 254)) ∧
    decide ((s.v16.x 3).toNat ≠ (s.v16.x 0).toNat) = true ∧ decide ((s.v16.x 3).toNat = (s.v16.x 0).toNat) = false :=
  ⟨rfl, by simp, by simp, by decide, by decide⟩

end Sys2Proof.Tests
end

