-- ==== Sys2Proof/Proofs/Separate.lean ====
section
/-! The two machines are separate (00_scope.md R1). The pieces of one machine, put in place of its pieces in any other state,
take the same step there: what a step of one machine does neither reads nor changes a piece of the other. -/

namespace Sys2Proof.Machine

/-! ### RVL32 -/

/-- The RVL32 pieces of `s` among all the other pieces of `u`. -/
def State.rvl32Onto (s u : State) : State :=
  { u with rvl32 := s.rvl32, csrs := s.csrs, waiting := s.waiting, wake := s.wake }

/-- A state that agrees with `s` on the RVL32 pieces is `s`'s pieces among its own others. -/
theorem State.rvl32Onto_of_agree {s u : State} (hr : u.rvl32 = s.rvl32) (hc : u.csrs = s.csrs)
    (hw : u.waiting = s.waiting) (hk : u.wake = s.wake) : s.rvl32Onto u = u := by
  simp only [State.rvl32Onto, ← hr, ← hc, ← hw, ← hk]

@[simp] theorem State.rvl32Onto_rvl32 (s u : State) : (s.rvl32Onto u).rvl32 = s.rvl32 := rfl

@[simp] theorem State.rvl32Onto_waiting (s u : State) : (s.rvl32Onto u).waiting = s.waiting := rfl

@[simp] theorem State.rvl32Onto_isa (s u : State) : (s.rvl32Onto u).isa = u.isa := rfl

@[simp] theorem State.rvl32Onto_csr (s u : State) (i : BitVec 6) : (s.rvl32Onto u).csr i = s.csr i := rfl

/-- A CSR function depends on the CSRs alone. -/
@[simp] theorem State.rvl32Onto_csrEval (s u : State) (written : Word32) (e : CsrExpr) :
    (s.rvl32Onto u).csrEval written e = s.csrEval written e := by
  induction e with
  | held | written | const => rfl
  | not a iha => simp only [State.csrEval, iha]
  | and a b iha ihb | or a b iha ihb | add a b iha ihb => simp only [State.csrEval, iha, ihb]
  | ifEq a b yes no iha ihb ihy ihn => simp only [State.csrEval, iha, ihb, ihy, ihn]

/-- A CSR's write effect depends on the CSRs alone. -/
@[simp] theorem State.rvl32Onto_csrAfter (s u : State) (written : Word32) (effect : List (BitVec 6 × CsrExpr))
    (i : BitVec 6) : (s.rvl32Onto u).csrAfter written effect i = s.csrAfter written effect i := by
  simp only [State.csrAfter, State.rvl32Onto_csr, State.rvl32Onto_csrEval]

/-- A CSR access is the same among any other pieces, whatever the platform has at its index. -/
theorem State.rvl32Onto_csrAccess {s t : State} (u : State) {rd : Reg32} {i : BitVec 6} {new : Word32 → Word32}
    (h : s.csrAccess rd i new = .next t) : (s.rvl32Onto u).csrAccess rd i new = .next (t.rvl32Onto u) := by
  simp only [State.csrAccess, State.rvl32Onto_csr, State.rvl32Onto_csrEval, State.rvl32Onto_csrAfter] at h ⊢
  cases hc : s.csr i
  all_goals rw [hc] at h; cases h; rfl

/-- An RVL32 instruction is the same among any other pieces: a CSR access, or an arm of `exec` whose new hart (and `waiting`,
in WFI) is made of the RVL32 pieces alone. -/
theorem exec_rvl32Onto {i : Instr} {s t : State} (u : State) (hi : i.isa = .rvl32) (h : exec i s = .next t) :
    exec i (s.rvl32Onto u) = .next (t.rvl32Onto u) := by
  cases i
  case csrrw | csrrs | csrrc | csrrwi | csrrsi | csrrci => exact State.rvl32Onto_csrAccess u h
  all_goals cases hi <;> cases h <;> rfl

/-- A step that waits is the same among any other pieces: it reads `wake` and writes `wake` and `waiting`. -/
theorem State.rvl32Onto_waitStep (s u : State) : (s.rvl32Onto u).waitStep = s.waitStep.rvl32Onto u := by
  rcases hk : s.wake with _ | ⟨_ | _, rest⟩ <;> simp [State.waitStep, State.rvl32Onto, hk]

/-- An RVL32 step that fetches is the same among any other pieces, whether the fetch faults, the word is rejected or its
instruction runs. -/
theorem State.rvl32Onto_run32 {s t : State} (u : State) (h : s.run32 = .next t) :
    (s.rvl32Onto u).run32 = .next (t.rvl32Onto u) := by
  simp only [State.run32, State.rvl32Onto_rvl32] at h ⊢
  rcases hf : s.rvl32.fetch with f | ⟨w, g⟩ <;> simp only [hf] at h ⊢
  · cases h; rfl
  · rcases hd : decode (.rvl32 w) with r | i <;> simp only [hd] at h ⊢
    · cases h; rfl
    · exact exec_rvl32Onto u (decode_isa32 w i hd) h

/-- A step of RVL32 is the same among any other pieces. -/
theorem step_rvl32Onto {s t u : State} (hs : s.isa = .rvl32) (hu : u.isa = .rvl32) (h : step s = .next t) :
    step (s.rvl32Onto u) = .next (t.rvl32Onto u) := by
  simp only [step, hs, hu, State.rvl32Onto_isa, State.step32, State.rvl32Onto_rvl32, State.rvl32Onto_waiting] at h ⊢
  by_cases stuck : s.rvl32.fault.isSome
  · simp only [stuck, if_true] at h ⊢
    cases h; rfl
  by_cases waits : s.waiting
  · simp only [stuck, waits, if_true, State.rvl32Onto_waitStep] at h ⊢
    cases h; rfl
  · simp only [stuck, waits] at h ⊢
    exact State.rvl32Onto_run32 u h

/-! ### V16 -/

/-- The V16 pieces of `s` among all the other pieces of `u`. -/
def State.v16Onto (s u : State) : State := { u with v16 := s.v16, imm3Signed := s.imm3Signed }

/-- A state that agrees with `s` on the V16 pieces is `s`'s pieces among its own others. -/
theorem State.v16Onto_of_agree {s u : State} (hv : u.v16 = s.v16) (hi : u.imm3Signed = s.imm3Signed) :
    s.v16Onto u = u := by
  simp only [State.v16Onto, ← hv, ← hi]

@[simp] theorem State.v16Onto_v16 (s u : State) : (s.v16Onto u).v16 = s.v16 := rfl

@[simp] theorem State.v16Onto_isa (s u : State) : (s.v16Onto u).isa = u.isa := rfl

/-- A V16 instruction is the same among any other pieces: its arm of `exec` makes the new hart of the V16 pieces alone. -/
theorem exec_v16Onto {i : Instr} {s t : State} (u : State) (hi : i.isa = .v16) (h : exec i s = .next t) :
    exec i (s.v16Onto u) = .next (t.v16Onto u) := by
  cases i <;> cases hi <;> cases h <;> rfl

/-- A V16 step that fetches is the same among any other pieces. -/
theorem State.v16Onto_run16 {s t : State} (u : State) (h : s.run16 = .next t) :
    (s.v16Onto u).run16 = .next (t.v16Onto u) := by
  simp only [State.run16, State.v16Onto_v16] at h ⊢
  rcases hf : s.v16.fetch with f | ⟨w, g⟩ <;> simp only [hf] at h ⊢
  · cases h; rfl
  · exact exec_v16Onto u (decode_isa16 w _ rfl) h

/-- A step of V16 is the same among any other pieces. -/
theorem step_v16Onto {s t u : State} (hs : s.isa = .v16) (hu : u.isa = .v16) (h : step s = .next t) :
    step (s.v16Onto u) = .next (t.v16Onto u) := by
  simp only [step, hs, hu, State.v16Onto_isa, State.step16, State.v16Onto_v16] at h ⊢
  by_cases stuck : s.v16.fault.isSome
  · simp only [stuck, if_true] at h ⊢
    cases h; rfl
  · simp only [stuck] at h ⊢
    exact State.v16Onto_run16 u h

/-! ### Both -/

/-- Where two RVL32 states agree on the RVL32 pieces, one's step leads to the other's RVL32 pieces among its own others. -/
theorem step_rvl32_agree {s s' t t' : State} (hs : s.isa = .rvl32) (hs' : s'.isa = .rvl32) (hr : s'.rvl32 = s.rvl32)
    (hc : s'.csrs = s.csrs) (hw : s'.waiting = s.waiting) (hk : s'.wake = s.wake) (h : step s = .next t)
    (h' : step s' = .next t') : t' = t.rvl32Onto s' := by
  have e := step_rvl32Onto hs hs' h
  rw [State.rvl32Onto_of_agree hr hc hw hk, h'] at e
  exact Host.Outcome.next.inj e

/-- Where two V16 states agree on the V16 pieces, one's step leads to the other's V16 pieces among its own others. -/
theorem step_v16_agree {s s' t t' : State} (hs : s.isa = .v16) (hs' : s'.isa = .v16) (hv : s'.v16 = s.v16)
    (hi : s'.imm3Signed = s.imm3Signed) (h : step s = .next t) (h' : step s' = .next t') : t' = t.v16Onto s' := by
  have e := step_v16Onto hs hs' h
  rw [State.v16Onto_of_agree hv hi, h'] at e
  exact Host.Outcome.next.inj e

/-- Settles O17. Each clause reads off that a step leads to its machine's new pieces among the others that stood there
before; the first two are the case of a state that agrees with itself. -/
theorem machinesAreSeparate : Obligations.MachinesAreSeparate := by
  refine ⟨fun s t hs h => ?_, fun s t hs h => ?_, fun s s' t t' hs hs' hr hc hw hk h h' => ?_,
    fun s s' t t' hs hs' hv hi h h' => ?_⟩
  · rw [step_rvl32_agree hs hs rfl rfl rfl rfl h h]
    exact ⟨rfl, rfl, rfl⟩
  · rw [step_v16_agree hs hs rfl rfl h h]
    exact ⟨rfl, rfl, rfl, rfl, rfl⟩
  · rw [step_rvl32_agree hs hs' hr hc hw hk h h']
    exact ⟨rfl, rfl, rfl, rfl⟩
  · rw [step_v16_agree hs hs' hv hi h h']
    rfl

end Sys2Proof.Machine
end

/-! The state and the invariant (10_state.md): what one instruction may change of its machine, said once as a short list of
changes, and from it the registers written, the sequential pc, the invariant and the parameters. -/

namespace Sys2Proof.Machine

variable {n : Nat}

/-! ### Accesses as changes of a hart -/

/-- A load faults, or draws, is noted, writes `x[rd]` and goes on. -/
theorem Hart.loadInto_cases (h : Hart n) (rd : Fin n) (addr : BitVec n) (width : Nat)
    (ext : BitVec (8 * width) → BitVec n) :
    (∃ f, h.loadInto rd addr width ext = h.raise f) ∨
      ∃ v draws io, h.loadInto rd addr width ext = Hart.writeNext { h with draws := draws, io := io } rd v := by
  rcases hc : h.checkAccess .load addr width with _ | f
  · obtain ⟨io, e⟩ := h.readData_eq addr width
    rw [Hart.loadInto_ok h rd addr width ext hc, e]
    exact .inr ⟨_, _, _, rfl⟩
  · exact .inl ⟨f, Hart.loadInto_fault h rd addr width ext f hc⟩

/-- A store faults, or writes bytes, is noted and goes on. -/
theorem Hart.storeFrom_cases (h : Hart n) (v addr : BitVec n) (width : Nat) :
    (∃ f, h.storeFrom v addr width = h.raise f) ∨
      ∃ bs io, h.storeFrom v addr width = Hart.advance { h.writeBytes addr bs with io := io } := by
  rcases hc : h.checkAccess .store addr width with _ | f
  · obtain ⟨io, e⟩ := h.writeData_eq v addr width
    rw [Hart.storeFrom_ok h v addr width hc, e]
    exact .inr ⟨_, io, rfl⟩
  · exact .inl ⟨f, Hart.storeFrom_fault h v addr width f hc⟩

/-! ### The changes an instruction makes -/

/-- What an instruction makes of its machine's hart: `rd` is the register the tables say it writes, `pcSet` whether it has a
`pc <-` of its own. `Hart.Effect` with loads, stores and free values seen through; WFI and the CSR instructions are here
too. -/
inductive Hart.Change (h : Hart n) : Hart n → Option (Fin n) → Bool → Prop
  /-- The terminal fault, whatever the instruction. -/
  | raised (f : Fault) (rd : Option (Fin n)) (pcSet : Bool) : h.Change (h.raise f) rd pcSet
  /-- Nothing but the next pc. -/
  | passed : h.Change h.advance none false
  /-- A register write, after free values drawn and accesses noted. -/
  | wrote (r : Fin n) (v : BitVec n) (draws : Nat) (io : List IoEvent) :
      h.Change (Hart.writeNext { h with draws := draws, io := io } r v) (some r) false
  /-- Bytes stored, and the write noted. -/
  | stored (addr : BitVec n) (bs : List Byte) (io : List IoEvent) :
      h.Change (Hart.advance { h.writeBytes addr bs with io := io }) none false
  /-- A link and a jump, to an aligned address from an aligned one. -/
  | linked (r : Fin n) (t : BitVec n) (aligned : h.pc.toNat % ilen n = 0 → t.toNat % ilen n = 0) :
      h.Change (h.link r t) (some r) true
  /-- A move of the pc, to an aligned address from an aligned one. -/
  | jumped (t : BitVec n) (aligned : h.pc.toNat % ilen n = 0 → t.toNat % ilen n = 0) : h.Change (h.jump t) none true

/-- Every effect of an instruction is one of these changes. -/
theorem Hart.Effect.change {h g : Hart n} {rd : Option (Fin n)} {pcSet : Bool} {span : Option (BitVec n × Nat)}
    (e : h.Effect g rd pcSet span) : h.Change g rd pcSet := by
  rcases e with ⟨f, rfl⟩ | ⟨r, v, rfl, rfl, -, rfl⟩ | ⟨r, rfl, rfl, -, rfl⟩ |
    ⟨r, addr, width, ext, rfl, rfl, -, -, rfl⟩ | ⟨v, addr, width, rfl, rfl, -, -, rfl⟩ |
    ⟨r, t, rfl, rfl, -, aligned, rfl⟩ | ⟨t, rfl, rfl, -, aligned, rfl⟩
  · exact .raised f _ _
  · exact .wrote r v h.draws h.io
  · exact .wrote r _ (h.draws + 1) h.io
  · rcases h.loadInto_cases r addr width ext with ⟨f, e⟩ | ⟨v, draws, io, e⟩ <;> rw [e]
    · exact .raised f _ _
    · exact .wrote r v draws io
  · rcases h.storeFrom_cases v addr width with ⟨f, e⟩ | ⟨bs, io, e⟩ <;> rw [e]
    · exact .raised f _ _
    · exact .stored addr bs io
  · exact .linked r t aligned
  · exact .jumped t aligned

/-- No change touches the parameters. -/
theorem Hart.Change.platform {h g : Hart n} {rd : Option (Fin n)} {pcSet : Bool} (c : h.Change g rd pcSet) :
    g.platform = h.platform := by
  cases c with
  | raised | passed | wrote | linked | jumped => simp
  | stored addr bs io =>
    obtain ⟨-, -, -, eplatform, -, -⟩ := Hart.writeBytes_frame bs h addr
    exact eplatform

/-- No register reads differently but the one the tables name (10_state.md R21, R38). -/
theorem Hart.Change.sameRegsBut {h g : Hart n} {rd : Option (Fin n)} {pcSet : Bool} (c : h.Change g rd pcSet) :
    h.SameRegsBut g rd := by
  cases c with
  | raised | passed | jumped => exact Hart.sameRegsBut_of_regs _ _ _ rfl
  | wrote r v =>
    refine Hart.sameRegsBut_of_setX _ _ r v fun q => Hart.x_congr ?_ q
    rw [Hart.writeNext_regs, Hart.setX, Hart.setX]
    split <;> rfl
  | stored addr bs => exact Hart.sameRegsBut_of_regs _ _ _ (Hart.writeBytes_frame bs h addr).1
  | linked r => exact Hart.sameRegsBut_of_setX _ _ r _ fun _ => rfl

/-- Where the pc is not set and no fault is entered, the next pc is the next instruction's (10_state.md R25, R41). -/
theorem Hart.Change.pc_eq_nextPc {h g : Hart n} {rd : Option (Fin n)} (c : h.Change g rd false) (hg : g.fault = none) :
    g.pc = h.nextPc := by
  cases c with
  | raised => cases hg
  | passed => rfl
  | wrote => simp [Hart.nextPc]
  | stored addr bs =>
    obtain ⟨-, epc, -, -, -, -⟩ := Hart.writeBytes_frame bs h addr
    simp only [Hart.advance_pc, Hart.nextPc, epc]

/-! ### The invariant of one machine -/

/-- The invariant of one machine, part by part. -/
theorem Hart.inv_iff (h : Hart n) : h.inv = true ↔ Memory.wf n h.mem = true ∧ AddrSet.wf n h.stored = true ∧
    h.pc.toNat % ilen n = 0 ∧ h.regs.toList.head? = some 0#n ∧ (h.platform.smc = .coherent → h.stored = []) := by
  cases hs : h.platform.smc <;> simp [Hart.inv, hs, and_assoc]

/-- The invariant does not speak of the fault, of the values drawn or of the accesses handed over. -/
theorem Hart.inv_congr {h g : Hart n} (hr : g.regs = h.regs) (hp : g.pc = h.pc) (hm : g.mem = h.mem)
    (hs : g.stored = h.stored) (hf : g.platform = h.platform) : g.inv = h.inv := by
  simp only [Hart.inv, hr, hp, hm, hs, hf]

@[simp] theorem Hart.inv_raise (h : Hart n) (f : Fault) : (h.raise f).inv = h.inv := rfl

/-- A fetch that answers keeps the invariant. -/
theorem Hart.inv_of_fetch {h g : Hart n} {w : BitVec n} (e : h.fetch = .ok (w, g)) : g.inv = h.inv := by
  obtain ⟨hr, hp, hm, hs, -, hf⟩ := Hart.fetch_frame h g w e
  exact Hart.inv_congr hr hp hm hs hf

/-- The next pc is aligned where the pc is: the instruction length divides the size of the address space. -/
theorem Hart.nextPc_aligned (hn : ilen n ∣ 2 ^ n) (h : Hart n) (hp : h.pc.toNat % ilen n = 0) :
    h.nextPc.toNat % ilen n = 0 := by
  rw [Hart.nextPc, BitVec.toNat_add, BitVec.toNat_ofNat, Nat.mod_mod_of_dvd _ hn, Nat.add_mod, hp,
    Nat.mod_mod_of_dvd _ hn]
  simp

/-- The two instruction lengths divide the sizes of their address spaces. -/
theorem ilen_dvd_32 : ilen 32 ∣ 2 ^ 32 := ⟨2 ^ 30, rfl⟩

theorem ilen_dvd_16 : ilen 16 ∣ 2 ^ 16 := ⟨2 ^ 15, rfl⟩

/-- Every change keeps the invariant. -/
theorem Hart.Change.inv {h g : Hart n} {rd : Option (Fin n)} {pcSet : Bool} (c : h.Change g rd pcSet)
    (hn : ilen n ∣ 2 ^ n) (hi : h.inv = true) : g.inv = true := by
  obtain ⟨hmem, hstored, hpc, hx0, hcoherent⟩ := h.inv_iff.1 hi
  have hnext := h.nextPc_aligned hn hpc
  cases c with
  | raised => exact hi
  | passed => exact (Hart.inv_iff _).2 ⟨hmem, hstored, hnext, hx0, hcoherent⟩
  | wrote r v draws io =>
    refine (Hart.inv_iff _).2 ⟨?_, ?_, ?_, (Hart.setX_cell_zero _ r v).trans hx0, ?_⟩
    · simpa using hmem
    · simpa using hstored
    · simpa [Hart.nextPc] using hnext
    · simpa using hcoherent
  | stored addr bs io =>
    obtain ⟨eregs, epc, -, eplatform, -, -⟩ := Hart.writeBytes_frame bs h addr
    refine (Hart.inv_iff _).2 ⟨Hart.writeBytes_wf bs h addr hmem, Hart.writeBytes_stored_wf bs h addr hstored, ?_,
      (congrArg (·.toList.head?) eregs).trans hx0, fun hc => ?_⟩
    · simpa only [Hart.advance_pc, Hart.nextPc, epc] using hnext
    · have hc' : h.platform.smc = .coherent := (congrArg Platform.smc eplatform).symm.trans hc
      exact (Hart.writeBytes_stored_coherent bs h addr hc').trans (hcoherent hc')
  | linked r t aligned =>
    refine (Hart.inv_iff _).2 ⟨?_, ?_, aligned hpc, (Hart.setX_cell_zero _ r _).trans hx0, ?_⟩
    · simpa using hmem
    · simpa using hstored
    · simpa using hcoherent
  | jumped t aligned => exact (Hart.inv_iff _).2 ⟨hmem, hstored, aligned hpc, hx0, hcoherent⟩

/-! ### What `exec` changes -/

/-- A CSR access is a change of the RVL32 hart, and of no cell but the value it holds. -/
theorem State.csrAccess_change {s t : State} {rd : Reg32} {c : BitVec 6} {new : Word32 → Word32}
    (h : s.csrAccess rd c new = .next t) : ∃ csrs g, t = { s with csrs := csrs, rvl32 := g } ∧
      s.rvl32.Change g (some rd) false ∧
        ∀ d : BitVec 6, CsrCell.hold 0#32 csrs[d.toNat] = CsrCell.hold 0#32 (s.csr d) := by
  cases hc : s.csr c with
  | absent =>
    rw [State.csrAccess_absent s rd c new hc] at h
    cases h
    exact ⟨s.csrs, _, rfl, .raised _ _ _, fun _ => rfl⟩
  | storage old =>
    rw [State.csrAccess_storage s rd c new old hc] at h
    cases h
    refine ⟨_, _, rfl, .wrote rd old s.rvl32.draws s.rvl32.io, fun d => ?_⟩
    rw [Vector.getElem_set]
    split
    · rename_i e
      rw [← BitVec.eq_of_toNat_eq e, hc]
      rfl
    · rfl
  | supplied v read effect =>
    obtain ⟨csrs, e, hcsrs⟩ := State.csrAccess_supplied s rd c new v read effect hc
    rw [e] at h
    cases h
    exact ⟨csrs, _, rfl, .wrote rd _ s.rvl32.draws s.rvl32.io, fun d => by rw [hcsrs d, State.hold_csrAfter]⟩
  | external =>
    rw [State.csrAccess_external s rd c new hc] at h
    cases h
    exact ⟨s.csrs, _, rfl, .wrote rd _ _ _, fun _ => rfl⟩

/-- All an RVL32 instruction changes: its hart, the values CSRs hold, and `waiting`, which it changes without a fault. -/
theorem exec_change32 {i : Instr} {s t : State} (hi : i.isa = .rvl32) (h : exec i s = .next t) :
    ∃ csrs waiting g, t = { s with csrs := csrs, waiting := waiting, rvl32 := g } ∧
      s.rvl32.Change g (writes32 i) (setsPc i) ∧ (waiting = s.waiting ∨ g.fault = s.rvl32.fault) ∧
        ∀ d : BitVec 6, CsrCell.hold 0#32 csrs[d.toNat] = CsrCell.hold 0#32 (s.csr d) := by
  rcases exec_effect32 i s hi with ⟨g, e, he⟩ | ⟨e, rfl⟩ | ⟨rd, c, new, e, hw, hp, -⟩ <;> rw [e] at h
  · cases h
    exact ⟨s.csrs, s.waiting, g, rfl, he.change, .inl rfl, fun _ => rfl⟩
  · cases h
    exact ⟨s.csrs, true, _, rfl, .passed, .inr rfl, fun _ => rfl⟩
  · obtain ⟨csrs, g, rfl, hg, hcsrs⟩ := State.csrAccess_change h
    exact ⟨csrs, s.waiting, g, rfl, hw ▸ hp ▸ hg, .inl rfl, hcsrs⟩

/-- All a V16 instruction changes: its hart. -/
theorem exec_change16 {i : Instr} {s t : State} (hi : i.isa = .v16) (h : exec i s = .next t) :
    ∃ g, t = { s with v16 := g } ∧ s.v16.Change g (writes16 i) (setsPc i) := by
  obtain ⟨g, e, he⟩ := exec_effect16 i s hi
  rw [e] at h
  cases h
  exact ⟨g, rfl, he.change⟩

/-- Settles O19. The other machine's hart is the same; the instruction's own makes one of the changes. -/
theorem registersWritten : Obligations.RegistersWritten := by
  intro i s t h
  cases hi : i.isa with
  | rvl32 =>
    obtain ⟨csrs, waiting, g, rfl, hg, -, -⟩ := exec_change32 hi h
    exact ⟨hg.sameRegsBut, fun _ _ => rfl⟩
  | v16 =>
    obtain ⟨g, rfl, hg⟩ := exec_change16 hi h
    exact ⟨fun _ _ => rfl, hg.sameRegsBut⟩

/-- Settles O21. Of the changes that set no pc only the terminal fault does not go on to the next instruction. -/
theorem sequentialPc : Obligations.SequentialPc := by
  intro i s t hp h
  refine ⟨fun hi _ hf => ?_, fun hi _ hf => ?_⟩
  · obtain ⟨csrs, waiting, g, rfl, hg, -, -⟩ := exec_change32 hi h
    rw [hp] at hg
    exact hg.pc_eq_nextPc hf
  · obtain ⟨g, rfl, hg⟩ := exec_change16 hi h
    rw [hp] at hg
    exact hg.pc_eq_nextPc hf

/-! ### The invariant of both machines -/

/-- The invariant of the state, part by part. -/
theorem State.inv_iff (s : State) : s.inv = true ↔
    s.rvl32.inv = true ∧ s.v16.inv = true ∧ (s.waiting = true → s.rvl32.fault = none) := by
  cases hw : s.waiting <;> simp [State.inv, hw, and_assoc]

/-- A step that waits consumes an input and ends the wait or not. -/
theorem State.waitStep_eq (s : State) : ∃ wake waiting,
    s.waitStep = { s with wake := wake, waiting := waiting } := by
  rcases hk : s.wake with _ | ⟨_ | _, rest⟩ <;> simp only [State.waitStep, hk]
  · exact ⟨[], s.waiting, by rw [← hk]⟩
  · exact ⟨rest, s.waiting, rfl⟩
  · exact ⟨rest, false, rfl⟩

/-- An RVL32 instruction keeps the invariant of a state that is neither stuck nor waiting. -/
theorem exec_inv32 {i : Instr} {s t : State} (hi : i.isa = .rvl32) (hf : s.rvl32.fault = none)
    (hw : s.waiting = false) (hs : s.inv = true) (h : exec i s = .next t) : t.inv = true := by
  obtain ⟨h32, h16, -⟩ := s.inv_iff.1 hs
  obtain ⟨csrs, waiting, g, rfl, hg, hwait, -⟩ := exec_change32 hi h
  refine (State.inv_iff _).2 ⟨hg.inv ilen_dvd_32 h32, h16, fun (waits : waiting = true) => ?_⟩
  rcases hwait with e | e
  · rw [hw, waits] at e
    cases e
  · exact e.trans hf

/-- A V16 instruction keeps the invariant. -/
theorem exec_inv16 {i : Instr} {s t : State} (hi : i.isa = .v16) (hs : s.inv = true) (h : exec i s = .next t) :
    t.inv = true := by
  obtain ⟨h32, h16, hwait⟩ := s.inv_iff.1 hs
  obtain ⟨g, rfl, hg⟩ := exec_change16 hi h
  exact (State.inv_iff _).2 ⟨h32, hg.inv ilen_dvd_16 h16, hwait⟩

/-- The invariant where the RVL32 hart is replaced by one that meets it and RVL32 does not wait. -/
theorem State.inv_rvl32 {s : State} {g : Hart 32} (hs : s.inv = true) (hw : s.waiting = false) (hg : g.inv = true) :
    State.inv { s with rvl32 := g } = true := by
  obtain ⟨-, h16, -⟩ := s.inv_iff.1 hs
  exact (State.inv_iff _).2 ⟨hg, h16, fun (waits : s.waiting = true) => by simp [hw] at waits⟩

/-- The invariant where the V16 hart is replaced by one that meets it. -/
theorem State.inv_v16 {s : State} {g : Hart 16} (hs : s.inv = true) (hg : g.inv = true) :
    State.inv { s with v16 := g } = true := by
  obtain ⟨h32, -, hwait⟩ := s.inv_iff.1 hs
  exact (State.inv_iff _).2 ⟨h32, hg, hwait⟩

/-- A step of RVL32 keeps the invariant. -/
theorem step_inv32 {s t : State} (hi : s.isa = .rvl32) (hs : s.inv = true) (h : step s = .next t) : t.inv = true := by
  obtain ⟨h32, h16, -⟩ := s.inv_iff.1 hs
  rcases step_cases32 s t hi h with ⟨-, rfl⟩ | ⟨hf, -, rfl⟩ | ⟨hf, hw, ⟨f, -, rfl⟩ | ⟨w, g, hfetch, hrun⟩⟩
  · exact hs
  · obtain ⟨wake, waiting, e⟩ := s.waitStep_eq
    rw [e]
    exact (State.inv_iff _).2 ⟨h32, h16, fun _ => hf⟩
  · exact State.inv_rvl32 hs hw h32
  · have hg : g.inv = true := (Hart.inv_of_fetch hfetch).trans h32
    obtain ⟨-, -, -, -, efault, -⟩ := Hart.fetch_frame _ g w hfetch
    rcases hrun with ⟨_, -, rfl⟩ | ⟨i, -, hisa, hexec⟩
    · exact State.inv_rvl32 hs hw hg
    · exact exec_inv32 (s := { s with rvl32 := g }) hisa (efault.trans hf) hw (State.inv_rvl32 hs hw hg) hexec

/-- A step of V16 keeps the invariant. -/
theorem step_inv16 {s t : State} (hi : s.isa = .v16) (hs : s.inv = true) (h : step s = .next t) : t.inv = true := by
  obtain ⟨-, h16, -⟩ := s.inv_iff.1 hs
  rcases step_cases16 s t hi h with ⟨-, rfl⟩ | ⟨-, ⟨f, -, rfl⟩ | ⟨w, g, hfetch, i, -, hisa, hexec⟩⟩
  · exact hs
  · exact State.inv_v16 hs h16
  · exact exec_inv16 hisa (State.inv_v16 hs ((Hart.inv_of_fetch hfetch).trans h16)) hexec

/-- Settles O15, machine by machine. -/
theorem stepKeepsInvariant : Obligations.StepKeepsInvariant := by
  intro s t hs h
  cases hi : s.isa with
  | rvl32 => exact step_inv32 hi hs h
  | v16 => exact step_inv16 hi hs h

/-! ### The parameters -/

/-- All parameters of `s` are those of `t` (10_state.md R46): both platforms, `V16_IMM3_SIGNED`, and every CSR's cell but
for the value held. -/
def State.SameParams (s t : State) : Prop :=
  t.rvl32.platform = s.rvl32.platform ∧ t.v16.platform = s.v16.platform ∧ t.imm3Signed = s.imm3Signed ∧
    ∀ i : BitVec 6, CsrCell.hold 0#32 (t.csr i) = CsrCell.hold 0#32 (s.csr i)

theorem State.SameParams.trans {s t u : State} (h : s.SameParams t) (h' : t.SameParams u) : s.SameParams u := by
  obtain ⟨h32, h16, hsigned, hcsr⟩ := h
  obtain ⟨h32', h16', hsigned', hcsr'⟩ := h'
  exact ⟨h32'.trans h32, h16'.trans h16, hsigned'.trans hsigned, fun i => (hcsr' i).trans (hcsr i)⟩

/-- A new RVL32 hart with the platform of the old one. -/
theorem State.sameParams_rvl32 (s : State) {g : Hart 32} (hg : g.platform = s.rvl32.platform) :
    s.SameParams { s with rvl32 := g } :=
  ⟨hg, rfl, rfl, fun _ => rfl⟩

/-- A new V16 hart with the platform of the old one. -/
theorem State.sameParams_v16 (s : State) {g : Hart 16} (hg : g.platform = s.v16.platform) :
    s.SameParams { s with v16 := g } :=
  ⟨rfl, hg, rfl, fun _ => rfl⟩

/-- A fetch that answers leaves the platform. -/
theorem Hart.platform_of_fetch {h g : Hart n} {w : BitVec n} (e : h.fetch = .ok (w, g)) :
    g.platform = h.platform := by
  obtain ⟨-, -, -, -, -, eplatform⟩ := Hart.fetch_frame h g w e
  exact eplatform

/-- No instruction changes a parameter. -/
theorem exec_sameParams {i : Instr} {s t : State} (h : exec i s = .next t) : s.SameParams t := by
  cases hi : i.isa with
  | rvl32 =>
    obtain ⟨csrs, waiting, g, rfl, hg, -, hcsrs⟩ := exec_change32 hi h
    exact ⟨hg.platform, rfl, rfl, hcsrs⟩
  | v16 =>
    obtain ⟨g, rfl, hg⟩ := exec_change16 hi h
    exact s.sameParams_v16 hg.platform

/-- Settles O18. A step leaves the state, waits, faults or runs an instruction after a fetch. -/
theorem parametersNeverChange : Obligations.ParametersNeverChange := by
  intro s t h
  change s.SameParams t
  cases hi : s.isa with
  | rvl32 =>
    rcases step_cases32 s t hi h with ⟨-, rfl⟩ | ⟨-, -, rfl⟩ | ⟨-, -, ⟨f, -, rfl⟩ | ⟨w, g, hfetch, hrun⟩⟩
    · exact t.sameParams_rvl32 rfl
    · obtain ⟨wake, waiting, e⟩ := s.waitStep_eq
      rw [e]
      exact ⟨rfl, rfl, rfl, fun _ => rfl⟩
    · exact s.sameParams_rvl32 rfl
    · have hg := Hart.platform_of_fetch hfetch
      rcases hrun with ⟨_, -, rfl⟩ | ⟨i, -, -, hexec⟩
      · exact s.sameParams_rvl32 hg
      · exact (s.sameParams_rvl32 hg).trans (exec_sameParams hexec)
  | v16 =>
    rcases step_cases16 s t hi h with ⟨-, rfl⟩ | ⟨-, ⟨f, -, rfl⟩ | ⟨w, g, hfetch, i, -, -, hexec⟩⟩
    · exact t.sameParams_v16 rfl
    · exact s.sameParams_v16 rfl
    · exact (s.sameParams_v16 (Hart.platform_of_fetch hfetch)).trans (exec_sameParams hexec)

end Sys2Proof.Machine

/-! The start state (10_state.md R34, R45): its registers, its memory as the image gives it, V16's low devices, and the
invariant where both reset pcs are aligned. -/

namespace Sys2Proof.Machine

variable {n : Nat}

/-! ### The memory an image gives -/

/-- Cells at other addresses, written later, leave a byte as it was. -/
theorem Memory.read_foldl_other {xlen : Nat} (a : Nat) (cells : List Host.Cell) : ∀ {m : Memory},
    Memory.wf xlen m = true → (∀ c ∈ cells, c.1 % 2 ^ xlen ≠ a) →
      Memory.read (cells.foldl (fun m c => Memory.write m (c.1 % 2 ^ xlen) c.2) m) a = Memory.read m a := by
  induction cells with
  | nil => exact fun _ _ => rfl
  | cons c cs ih =>
    intro m hm hother
    rw [List.foldl_cons, ih (Memory.wf_write hm _ _ (Nat.mod_lt _ (by positivity)))
      fun d hd => hother d (List.mem_cons_of_mem _ hd), Memory.read_write hm,
      if_neg (Ne.symm (hother c List.mem_cons_self))]

/-- The last cell an image has at an address gives the byte there (log 20). -/
theorem Memory.read_ofCells_last {xlen : Nat} {cells pre post : List Host.Cell} {a : Nat} {b : Byte}
    (hcells : cells = pre ++ (a, b) :: post) (ha : a < 2 ^ xlen) (hlast : ∀ c ∈ post, c.1 % 2 ^ xlen ≠ a) :
    Memory.read (Memory.ofCells xlen cells) a = b := by
  have hpre : Memory.wf xlen (Memory.ofCells xlen pre) = true := Memory.wf_ofCells xlen pre
  rw [hcells, Memory.ofCells, List.foldl_append, List.foldl_cons, Nat.mod_eq_of_lt ha]
  exact (Memory.read_foldl_other a post (Memory.wf_write hpre a b ha) hlast).trans
    ((Memory.read_write hpre a b a).trans (if_pos rfl))

/-! ### The start of one machine -/

/-- The start leaves the registers but x0 at the values given. -/
theorem Hart.x_start_of_ne (p : MachineParams n) (platform : Platform) (r : Fin n) (hr : r.val ≠ 0) :
    (Hart.start p platform).x r = p.regs[r] := by
  rw [Hart.x_of_ne _ r hr]
  simp [Hart.start, hr]

/-- The start meets the invariant of one machine where the reset pc is aligned; `hn` says that there is an x0. -/
theorem Hart.inv_start (hn : 0 < n) (p : MachineParams n) (platform : Platform) (hp : p.resetPc.toNat % ilen n = 0) :
    (Hart.start p platform).inv = true := by
  refine (Hart.inv_iff _).2 ⟨Memory.wf_ofCells n _, rfl, hp, ?_, fun _ => rfl⟩
  simp [Hart.start, List.head?_eq_getElem?, hn]

/-! ### The start state -/

/-- V16's devices are those given and, under `V16_LOW_IO`, the byte addresses 0 to 15 (10_state.md R42; log 10). -/
theorem platform16_isDevice_iff (p : Params) (a : Nat) : (platform16 p).isDevice a = true ↔
    p.v16.platform.isDevice a = true ∨ (p.lowIo = true ∧ a ≤ 15) := by
  cases hlow : p.lowIo
  · simp [platform16, hlow]
  · simp [platform16, hlow, Platform.isDevice, lowIoRange, or_comm]

/-- `V16_LOW_IO` changes nothing but the devices. -/
theorem platform16_rest (p : Params) : (platform16 p).windows = p.v16.platform.windows ∧
    (platform16 p).misaligned = p.v16.platform.misaligned ∧ (platform16 p).smc = p.v16.platform.smc := by
  unfold platform16
  split <;> exact ⟨rfl, rfl, rfl⟩

/-- A start state meets the invariant where both reset pcs are aligned. -/
theorem State.inv_start (p : Params) (h32 : p.rvl32.resetPc.toNat % ilen 32 = 0)
    (h16 : p.v16.resetPc.toNat % ilen 16 = 0) :
    (State.start p).inv = true :=
  (State.inv_iff _).2 ⟨Hart.inv_start (by omega) _ _ h32, Hart.inv_start (by omega) _ _ h16, fun h => by cases h⟩

/-- Settles O13, each machine by the start of one machine. -/
theorem startState : Obligations.StartState := by
  intro p
  obtain ⟨hwindows, hmisaligned, hsmc⟩ := platform16_rest p
  refine ⟨⟨Hart.x_zero _ _ rfl, fun r hr => ?_, rfl, rfl, rfl, rfl, rfl, Memory.wf_ofCells 32 _,
      fun _ _ _ _ hcells ha hlast => Memory.read_ofCells_last hcells ha hlast⟩,
    ⟨Hart.x_zero _ _ rfl, fun r hr => ?_, rfl, rfl, rfl, Memory.wf_ofCells 16 _,
      fun _ _ _ _ hcells ha hlast => Memory.read_ofCells_last hcells ha hlast⟩,
    rfl, rfl, rfl, rfl, hwindows, hmisaligned, hsmc, platform16_isDevice_iff p⟩
  · exact Hart.x_start_of_ne _ _ r fun e => hr (Fin.ext e)
  · exact Hart.x_start_of_ne _ _ r fun e => hr (Fin.ext e)

/-- Settles O14: the baseline reset pcs are aligned. -/
theorem resetMeetsInvariant : Obligations.ResetMeetsInvariant :=
  State.inv_start baselineParams rfl rfl

end Sys2Proof.Machine

/-! The CSR instructions on each kind of CSR (10_state.md R30, R31; 45_misc_mem_system.md R200 to R206). -/

namespace Sys2Proof.Machine

/-! ### The six instructions as one access -/

/-- The six CSR instructions on `c`, each with the value it writes where it reads `old` (45_misc_mem_system.md R201 to
R206). -/
def State.csrWrites (s : State) (rd rs1 : Reg32) (imm5 : BitVec 5) (c : BitVec 6) (old : Word32) :
    List (Instr × Word32) :=
  let a := s.rvl32.x rs1
  let imm := BitVec.ofNat 32 imm5.toNat
  [(.csrrw rd rs1 c, a), (.csrrs rd rs1 c, old ||| a), (.csrrc rd rs1 c, old &&& ~~~a), (.csrrwi rd imm5 c, imm),
    (.csrrsi rd imm5 c, old ||| imm), (.csrrci rd imm5 c, old &&& ~~~imm)]

/-- The immediate of CSRRWI, CSRRSI and CSRRCI is its number (45_misc_mem_system.md R200). -/
theorem csrImmValue_eq (imm5 : BitVec 5) : csrImmValue imm5 = BitVec.ofNat 32 imm5.toNat :=
  BitVec.eq_of_toNat_eq (by simp [csrImmValue])

/-- Each of the six is one access that writes that value. -/
theorem State.exec_csrWrites {s : State} {rd rs1 : Reg32} {imm5 : BitVec 5} {c : BitVec 6} {old : Word32}
    {iv : Instr × Word32} (h : iv ∈ s.csrWrites rd rs1 imm5 c old) :
    ∃ new, exec iv.1 s = s.csrAccess rd c new ∧ new old = iv.2 := by
  simp only [State.csrWrites, List.mem_cons, List.not_mem_nil, or_false] at h
  rw [← csrImmValue_eq] at h
  rcases h with rfl | rfl | rfl | rfl | rfl | rfl
  all_goals exact ⟨_, rfl, rfl⟩

/-! ### A port of the platform's -/

/-- `s` with one free value drawn and the read and the write of the CSR `c` handed to the platform (logs 8, 12). -/
def State.csrPortNoted (s : State) (c : BitVec 6) (written : Word32) : State :=
  { s with rvl32 := { s.rvl32 with
    draws := s.rvl32.draws + 1
    io := .csrWrite c.toNat written :: .csrRead c.toNat :: s.rvl32.io } }

/-- An access to such a CSR is that and then a register write. -/
theorem State.csrAccess_port (s : State) (rd : Reg32) (c : BitVec 6) (new : Word32 → Word32) (hc : s.csr c = .external) :
    let old := Config.unspecified 32 s.rvl32.draws 32
    let noted := s.csrPortNoted c (new old)
    s.csrAccess rd c new = .next { noted with rvl32 := noted.rvl32.writeNext rd old } :=
  State.csrAccess_external s rd c new hc

/-! ### Cells after a write effect -/

/-- The first entry of a CSR gives its new value (log 12). -/
theorem State.csrAfter_first (s : State) (written : Word32) {effect pre post : List (BitVec 6 × CsrExpr)} {d : BitVec 6}
    {e : CsrExpr} (heffect : effect = pre ++ (d, e) :: post) (hpre : ∀ p ∈ pre, p.1 ≠ d) :
    s.csrAfter written effect d = CsrCell.hold (s.csrEval written e) (s.csr d) := by
  have hnone : pre.find? (fun p => p.1 == d) = none := by simpa using hpre
  simp [State.csrAfter, heffect, List.find?_append, hnone]

/-- A CSR that the effect does not list stays. -/
theorem State.csrAfter_unlisted (s : State) (written : Word32) {effect : List (BitVec 6 × CsrExpr)} {d : BitVec 6}
    (h : ∀ p ∈ effect, p.1 ≠ d) : s.csrAfter written effect d = s.csr d := by
  have hnone : effect.find? (fun p => p.1 == d) = none := by simpa using h
  simp [State.csrAfter, hnone]

/-! ### The statements -/

/-- Settles O44. -/
theorem csrAbsentFaults : Obligations.CsrAbsentFaults := by
  intro s rd rs1 imm5 c hc i hi
  obtain ⟨iv, hiv, rfl⟩ : ∃ iv ∈ s.csrWrites rd rs1 imm5 c 0#32, iv.1 = i := List.mem_map.1 hi
  obtain ⟨new, hexec, -⟩ := State.exec_csrWrites hiv
  exact ⟨_, hexec.trans (State.csrAccess_absent s rd c new hc), rfl⟩

/-- Settles O45: a free value is drawn and both accesses noted, then `x[rd]` is written. -/
theorem csrPlatformPort : Obligations.CsrPlatformPort := by
  intro s rd rs1 imm5 c hc old a imm iv hiv
  obtain ⟨new, hexec, hnew⟩ := State.exec_csrWrites (s := s) (old := old) hiv
  obtain ⟨hx, hpc, hregs, hmem, ⟨hstored, hfault, hplatform, hdraws, hio⟩, haround⟩ :=
    wrote32_writeNext (s.csrPortNoted c (new old)) rd (rfl : old = old)
  exact ⟨_, hexec.trans (State.csrAccess_port s rd c new hc), hnew ▸ hio, hdraws,
    fun hr => hx fun e => hr (Fin.ext e), hpc, hregs, hmem, hstored, hfault, hplatform, haround⟩

/-- Settles O46: the write effect gives every cell, the value read goes to `x[rd]`. -/
theorem csrFunctionResults : Obligations.CsrFunctionResults := by
  intro s rd rs1 imm5 c v read effect hc old a imm iv hiv
  obtain ⟨new, hexec, hnew⟩ := State.exec_csrWrites (s := s) (old := old) hiv
  obtain ⟨csrs, haccess, hcsrs⟩ := State.csrAccess_supplied s rd c new v read effect hc
  have hcells : ∀ d : BitVec 6, csrs[d.toNat] = s.csrAfter iv.2 effect d := fun d => hnew ▸ hcsrs d
  obtain ⟨hx, hpc, hregs, hmem, hhidden, -⟩ := wrote32_writeNext s rd (rfl : old = old)
  exact ⟨_, hexec.trans haccess,
    fun pre d e post heffect hpre => (hcells d).trans (s.csrAfter_first iv.2 heffect hpre),
    fun d hd => (hcells d).trans (s.csrAfter_unlisted iv.2 hd),
    fun hr => hx fun e => hr (Fin.ext e), hpc, hregs, hmem, hhidden, rfl, rfl, rfl, rfl, rfl⟩

end Sys2Proof.Machine

/-! What an instruction does not read (10_state.md R22, R44): every shared operation does the same to a hart whose registers
are replaced, but for the registers; so an instruction depends on the registers it reads and on no other. -/

namespace Sys2Proof.Machine

variable {n : Nat}

/-! ### Registers replaced -/

/-- The hart with other registers. -/
def Hart.withRegs (h : Hart n) (regs : Vector (BitVec n) n) : Hart n := { h with regs := regs }

/-- The state with other registers on both machines. -/
def State.withRegs (s : State) (regs32 : Vector Word32 32) (regs16 : Vector Word16 16) : State :=
  { s with rvl32 := s.rvl32.withRegs regs32, v16 := s.v16.withRegs regs16 }

/-- `g` is `h` but for registers, and `rd` reads the same in both where `h` has not faulted. -/
def Hart.Alike (h g : Hart n) (rd : Option (Fin n)) : Prop :=
  g = h.withRegs g.regs ∧ (h.fault = none → ∀ r, rd = some r → g.x r = h.x r)

/-- Where no register is written, only the rest is compared. -/
theorem Hart.alike_none {h g : Hart n} (e : g = h.withRegs g.regs) : h.Alike g none :=
  ⟨e, fun _ _ hr => by cases hr⟩

/-! ### The shared operations -/

theorem Hart.alike_raise (h : Hart n) (regs : Vector (BitVec n) n) (f : Fault) (rd : Option (Fin n)) :
    (h.raise f).Alike ((h.withRegs regs).raise f) rd :=
  ⟨rfl, fun hf => by cases hf⟩

theorem Hart.alike_setX (h : Hart n) (regs : Vector (BitVec n) n) (r : Fin n) (v : BitVec n) :
    (h.setX r v).Alike ((h.withRegs regs).setX r v) (some r) := by
  refine ⟨?_, fun _ q hq => ?_⟩
  · unfold Hart.setX
    split <;> rfl
  · obtain rfl := Option.some.inj hq
    by_cases hr : r.val = 0
    · rw [Hart.x_zero _ r hr, Hart.x_zero _ r hr]
    · rw [Hart.x_setX_self _ r v hr, Hart.x_setX_self _ r v hr]

theorem Hart.Alike.jump {h g : Hart n} {rd : Option (Fin n)} (a : h.Alike g rd) (t : BitVec n) :
    (h.jump t).Alike (g.jump t) rd :=
  ⟨congrArg (·.jump t) a.1, a.2⟩

theorem Hart.alike_jump (h : Hart n) (regs : Vector (BitVec n) n) {t t' : BitVec n} (e : t' = t) :
    (h.jump t).Alike ((h.withRegs regs).jump t') none := by
  subst e
  exact Hart.alike_none rfl

theorem Hart.alike_writeNext (h : Hart n) (regs : Vector (BitVec n) n) (r : Fin n) {v v' : BitVec n} (e : v' = v) :
    (h.writeNext r v).Alike ((h.withRegs regs).writeNext r v') (some r) := by
  subst e
  have a := (h.alike_setX regs r v').jump h.nextPc
  rwa [Hart.writeNext, Hart.writeNext, Hart.advance, Hart.advance, Hart.setX_nextPc, Hart.setX_nextPc]

theorem Hart.alike_link (h : Hart n) (regs : Vector (BitVec n) n) (r : Fin n) {t t' : BitVec n} (e : t' = t) :
    (h.link r t).Alike ((h.withRegs regs).link r t') (some r) := by
  subst e
  exact (h.alike_setX regs r h.nextPc).jump t'

theorem Hart.alike_linkAligned (h : Hart n) (regs : Vector (BitVec n) n) (r : Fin n) {t t' : BitVec n} (e : t' = t) :
    (h.linkAligned r t).Alike ((h.withRegs regs).linkAligned r t') (some r) := by
  subst e
  unfold Hart.linkAligned
  split
  · exact h.alike_link regs r rfl
  · exact h.alike_raise regs _ _

theorem Hart.alike_shiftNext (h : Hart 16) (regs : Vector Word16 16) (r : Reg16) {v v' : Option Word16} (e : v' = v) :
    (h.shiftNext r v).Alike ((h.withRegs regs).shiftNext r v') (some r) := by
  subst e
  cases v' with
  | some v => exact h.alike_writeNext regs r rfl
  | none => exact Hart.alike_writeNext { h with draws := h.draws + 1 } regs r rfl

/-! ### Loads and stores -/

theorem Hart.checkBytes_withRegs (h : Hart n) (regs : Vector (BitVec n) n) (kind : AccessKind) (k : Nat) :
    ∀ addr : BitVec n, (h.withRegs regs).checkBytes kind addr k = h.checkBytes kind addr k := by
  induction k with
  | zero => exact fun _ => rfl
  | succ k ih => exact fun addr => by simp only [Hart.checkBytes, ih]; rfl

/-- Whether an access faults does not depend on the registers. -/
theorem Hart.checkAccess_withRegs (h : Hart n) (regs : Vector (BitVec n) n) (kind : AccessKind) (addr : BitVec n)
    (width : Nat) : (h.withRegs regs).checkAccess kind addr width = h.checkAccess kind addr width := by
  simp only [Hart.checkAccess, Hart.checkBytes_withRegs]
  rfl

theorem Hart.noteIo_withRegs (h : Hart n) (regs : Vector (BitVec n) n) (addr : BitVec n) (width : Nat) (e : IoEvent) :
    (h.withRegs regs).noteIo addr width e = (h.noteIo addr width e).withRegs regs := by
  have touches : (h.withRegs regs).touchesDevice addr width = h.touchesDevice addr width := rfl
  simp only [Hart.noteIo, touches]
  split <;> rfl

/-- A read does not depend on the registers. -/
theorem Hart.readData_withRegs (h : Hart n) (regs : Vector (BitVec n) n) (addr : BitVec n) (width : Nat) :
    (h.withRegs regs).readData addr width = ((h.readData addr width).1, (h.readData addr width).2.withRegs regs) := by
  unfold Hart.readData
  split
  · simp only [Hart.readAccess_eq, Hart.noteIo_withRegs]
    rfl
  · simp only [Hart.readSplit_eq]
    rfl

theorem Hart.writeBytes_withRegs (regs : Vector (BitVec n) n) (bs : List Byte) : ∀ (h : Hart n) (addr : BitVec n),
    (h.withRegs regs).writeBytes addr bs = (h.writeBytes addr bs).withRegs regs := by
  induction bs with
  | nil => exact fun _ _ => rfl
  | cons b bs ih =>
    intro h addr
    have first : (h.withRegs regs).writeByte addr.toNat b = (h.writeByte addr.toNat b).withRegs regs := by
      simp only [Hart.writeByte_eq]
      rfl
    rw [Hart.writeBytes, Hart.writeBytes, first, ih]

/-- A write does not depend on the registers but for the value written. -/
theorem Hart.writeData_withRegs (h : Hart n) (regs : Vector (BitVec n) n) (v addr : BitVec n) (width : Nat) :
    (h.withRegs regs).writeData addr (valueBytes v width) = (h.writeData addr (valueBytes v width)).withRegs regs := by
  unfold Hart.writeData
  split
  · simp only [Hart.writeAccess_eq, Hart.writeBytes_withRegs]
    rfl
  · simp only [Hart.writeSplit_eq, Hart.writeBytes_withRegs]
    rfl

theorem Hart.alike_loadInto (h : Hart n) (regs : Vector (BitVec n) n) (r : Fin n) {addr addr' : BitVec n} (width : Nat)
    (ext : BitVec (8 * width) → BitVec n) (e : addr' = addr) :
    (h.loadInto r addr width ext).Alike ((h.withRegs regs).loadInto r addr' width ext) (some r) := by
  subst e
  have hcheck' := h.checkAccess_withRegs regs .load addr' width
  rcases hcheck : h.checkAccess .load addr' width with _ | f <;> rw [hcheck] at hcheck'
  · rw [Hart.loadInto_ok h _ _ _ _ hcheck, Hart.loadInto_ok _ _ _ _ _ hcheck', Hart.readData_withRegs]
    exact Hart.alike_writeNext _ regs r rfl
  · rw [Hart.loadInto_fault h _ _ _ _ f hcheck, Hart.loadInto_fault _ _ _ _ _ f hcheck']
    exact h.alike_raise regs f _

theorem Hart.alike_storeFrom (h : Hart n) (regs : Vector (BitVec n) n) {v v' addr addr' : BitVec n} (width : Nat)
    (ev : v' = v) (e : addr' = addr) :
    (h.storeFrom v addr width).Alike ((h.withRegs regs).storeFrom v' addr' width) none := by
  subst ev e
  have hcheck' := h.checkAccess_withRegs regs .store addr' width
  rcases hcheck : h.checkAccess .store addr' width with _ | f <;> rw [hcheck] at hcheck'
  · rw [Hart.storeFrom_ok h _ _ _ hcheck, Hart.storeFrom_ok _ _ _ _ hcheck', Hart.writeData_withRegs]
    exact Hart.alike_none rfl
  · rw [Hart.storeFrom_fault h _ _ _ f hcheck, Hart.storeFrom_fault _ _ _ _ f hcheck']
    exact h.alike_raise regs f _

/-! ### CSRs -/

/-- A CSR function depends on what the CSRs hold, and so not on the registers. -/
theorem State.csrEval_congr {s u : State} (h : u.csrs = s.csrs) (written : Word32) (e : CsrExpr) :
    u.csrEval written e = s.csrEval written e := by
  induction e with
  | held i => simp only [State.csrEval, State.csr, h]
  | written | const => rfl
  | not a iha => simp only [State.csrEval, iha]
  | and a b iha ihb | or a b iha ihb | add a b iha ihb => simp only [State.csrEval, iha, ihb]
  | ifEq a b yes no iha ihb ihy ihn => simp only [State.csrEval, iha, ihb, ihy, ihn]

/-- So does a CSR's write effect. -/
theorem State.csrAfter_congr {s u : State} (h : u.csrs = s.csrs) (written : Word32)
    (effect : List (BitVec 6 × CsrExpr)) (i : BitVec 6) : u.csrAfter written effect i = s.csrAfter written effect i := by
  simp only [State.csrAfter, State.csrEval_congr h, State.csr, h]

/-- A CSR access depends on no register but through the value it writes. -/
theorem State.csrAccess_alike (s : State) (regs32 : Vector Word32 32) (regs16 : Vector Word16 16) (rd : Reg32)
    (c : BitVec 6) (new : Word32 → Word32) :
    ∃ (u : State) (g g' : Hart 32), s.csrAccess rd c new = .next { u with rvl32 := g } ∧
      (s.withRegs regs32 regs16).csrAccess rd c new = .next { u with rvl32 := g', v16 := u.v16.withRegs regs16 } ∧
        g.Alike g' (some rd) := by
  have hcsrs : (s.withRegs regs32 regs16).csrs = s.csrs := rfl
  have hcell : (s.withRegs regs32 regs16).csr c = s.csr c := rfl
  simp only [State.csrAccess, hcell]
  cases s.csr c with
  | absent => exact ⟨s, _, _, rfl, rfl, Hart.alike_raise s.rvl32 regs32 _ _⟩
  | storage old =>
    exact ⟨{ s with csrs := s.csrs.set c.toNat (.storage (new old)) c.isLt }, _, _, rfl, rfl,
      Hart.alike_writeNext s.rvl32 regs32 rd rfl⟩
  | supplied v read effect =>
    simp only [State.csrEval_congr hcsrs, State.csrAfter_congr hcsrs]
    exact ⟨{ s with csrs := Vector.ofFn fun j => s.csrAfter (new (s.csrEval 0#32 read)) effect (BitVec.ofNat 6 j.val) },
      _, _, rfl, rfl, Hart.alike_writeNext s.rvl32 regs32 rd rfl⟩
  | external =>
    exact ⟨s, _, _, rfl, rfl, Hart.alike_writeNext { s.rvl32 with
      draws := s.rvl32.draws + 1
      io := .csrWrite c.toNat (new (Config.unspecified 32 s.rvl32.draws 32)) :: .csrRead c.toNat :: s.rvl32.io }
      regs32 rd rfl⟩

/-! ### Instructions -/

/-- An RVL32 instruction depends on no register but those of its row in R22: with any others replaced it does the same to
the rest, and writes the same value. -/
theorem exec_alike32 {i : Instr} (s : State) (regs32 : Vector Word32 32) (regs16 : Vector Word16 16)
    (hi : i.isa = .rvl32) (hr : ∀ r ∈ reads32 i, (s.rvl32.withRegs regs32).x r = s.rvl32.x r) :
    ∃ (u : State) (g g' : Hart 32), exec i s = .next { u with rvl32 := g } ∧
      exec i (s.withRegs regs32 regs16) = .next { u with rvl32 := g', v16 := u.v16.withRegs regs16 } ∧
        g.Alike g' (writes32 i) := by
  have hpc : (s.rvl32.withRegs regs32).pc = s.rvl32.pc := rfl
  have h32 : (s.withRegs regs32 regs16).rvl32 = s.rvl32.withRegs regs32 := rfl
  cases i <;> cases hi
  case fence | fenceI | ecall | ebreak => exact ⟨s, _, _, rfl, rfl, Hart.alike_raise _ _ _ _⟩
  case wfi => exact ⟨{ s with waiting := true }, _, _, rfl, rfl, Hart.alike_jump _ _ rfl⟩
  case lui | auipc => exact ⟨s, _, _, rfl, rfl, Hart.alike_writeNext _ _ _ rfl⟩
  case jal => exact ⟨s, _, _, rfl, rfl, Hart.alike_link _ _ _ rfl⟩
  case csrrwi | csrrsi | csrrci => exact State.csrAccess_alike s regs32 regs16 _ _ _
  all_goals simp only [reads32, List.mem_cons, List.not_mem_nil, or_false, forall_eq_or_imp, forall_eq] at hr
  case csrrw | csrrs | csrrc =>
    simp only [exec, execCsrrw, execCsrrs, execCsrrc, h32, hr]
    exact State.csrAccess_alike s regs32 regs16 _ _ _
  case beq | bne | blt | bge | bltu | bgeu =>
    exact ⟨s, _, _, rfl, rfl, Hart.alike_jump _ _ (by simp only [h32, hpc, hr, Hart.nextPc])⟩
  case sb | sh | sw =>
    exact ⟨s, _, _, rfl, rfl, Hart.alike_storeFrom _ _ _ (by rw [h32, hr.2]) (by rw [h32, address32, hr.1]; rfl)⟩
  case lb | lh | lw | lbu | lhu =>
    exact ⟨s, _, _, rfl, rfl, Hart.alike_loadInto _ _ _ _ _ (by rw [h32, address32, hr]; rfl)⟩
  case jalr => exact ⟨s, _, _, rfl, rfl, Hart.alike_linkAligned _ _ _ (by rw [h32, hr])⟩
  all_goals exact ⟨s, _, _, rfl, rfl, Hart.alike_writeNext _ _ _ (by simp only [h32, hr])⟩

/-- A V16 instruction depends on no register but those of its row in R44. -/
theorem exec_alike16 {i : Instr} (s : State) (regs32 : Vector Word32 32) (regs16 : Vector Word16 16)
    (hi : i.isa = .v16) (hr : ∀ r ∈ reads16 i, (s.v16.withRegs regs16).x r = s.v16.x r) :
    ∃ g g' : Hart 16, exec i s = .next { s with v16 := g } ∧
      exec i (s.withRegs regs32 regs16) = .next { s with rvl32 := s.rvl32.withRegs regs32, v16 := g' } ∧
        g.Alike g' (writes16 i) := by
  have hpc : (s.v16.withRegs regs16).pc = s.v16.pc := rfl
  have h16 : (s.withRegs regs32 regs16).v16 = s.v16.withRegs regs16 := rfl
  have hsigned : (s.withRegs regs32 regs16).imm3Signed = s.imm3Signed := rfl
  cases i <;> cases hi
  case v16Free0 | v16Free1 | v16Free3 | v16Free8 | v16Free9 | v16Free10 | v16Free15 =>
    exact ⟨_, _, rfl, rfl, Hart.alike_raise _ _ _ _⟩
  case v16Li => exact ⟨_, _, rfl, rfl, Hart.alike_writeNext _ _ _ rfl⟩
  case v16Jal => exact ⟨_, _, rfl, rfl, Hart.alike_link _ _ _ rfl⟩
  all_goals simp only [reads16, List.mem_cons, List.not_mem_nil, or_false, forall_eq_or_imp, forall_eq] at hr
  case v16IfEq | v16IfNe | v16IfLt | v16IfGe | v16IfLtu | v16IfGeu =>
    exact ⟨_, _, rfl, rfl, Hart.alike_jump _ _ (by simp only [h16, hpc, hr, Hart.nextPc])⟩
  case v16Sw | v16Sb =>
    exact ⟨_, _, rfl, rfl, Hart.alike_storeFrom _ _ _ (by rw [h16, hr.2]) (by rw [h16, address16, hr.1]; rfl)⟩
  case v16Lw | v16Lb =>
    exact ⟨_, _, rfl, rfl, Hart.alike_loadInto _ _ _ _ _ (by rw [h16, address16, hr]; rfl)⟩
  case v16Jalr => exact ⟨_, _, rfl, rfl, Hart.alike_linkAligned _ _ _ (by rw [h16, hr])⟩
  case v16Srl | v16Sra => exact ⟨_, _, rfl, rfl, Hart.alike_shiftNext _ _ _ (by simp only [h16, hr])⟩
  all_goals exact ⟨_, _, rfl, rfl, Hart.alike_writeNext _ _ _ (by simp only [h16, hpc, hsigned, hr])⟩

/-- An instruction writes registers of its own machine alone. -/
theorem writes16_of_rvl32 {i : Instr} (hi : i.isa = .rvl32) : writes16 i = none := by
  cases i <;> cases hi <;> rfl

theorem writes32_of_v16 {i : Instr} (hi : i.isa = .v16) : writes32 i = none := by
  cases i <;> cases hi <;> rfl

/-- Settles O20. The harts of the instruction's machine are alike after it, those of the other machine differ in registers
as before it. -/
theorem registersRead : Obligations.RegistersRead := by
  intro i s t t' regs32 regs16 s' hr32 hr16 h h'
  have hs' : s' = s.withRegs regs32 regs16 := rfl
  rw [hs'] at h'
  cases hi : i.isa with
  | rvl32 =>
    obtain ⟨u, g, g', e, e', hrest, hvalue⟩ := exec_alike32 s regs32 regs16 hi hr32
    cases h.symm.trans e
    cases h'.symm.trans e'
    refine ⟨?_, fun _ => hvalue, fun _ _ r hr => ?_⟩
    · rw [hrest]
      rfl
    · rw [writes16_of_rvl32 hi] at hr
      cases hr
  | v16 =>
    obtain ⟨g, g', e, e', hrest, hvalue⟩ := exec_alike16 s regs32 regs16 hi hr16
    cases h.symm.trans e
    cases h'.symm.trans e'
    refine ⟨?_, fun _ _ r hr => ?_, fun _ => hvalue⟩
    · rw [hrest]
      rfl
    · rw [writes32_of_v16 hi] at hr
      cases hr

end Sys2Proof.Machine

/-! Words, bytes and addresses (20_memory.md R52, R57): bytes put together give the word they are the bytes of, decoding from
bytes, and effective addresses as sums. -/

namespace Sys2Proof.Machine

variable {n : Nat}

/-! ### Bytes put together -/

/-- A byte below a value. -/
theorem toNat_append_byte {m : Nat} (hi : BitVec m) (b : Byte) : (hi ++ b).toNat = 256 * hi.toNat + b.toNat := by
  rw [BitVec.toNat_append, ← Nat.shiftLeft_add_eq_or_of_lt b.isLt, Nat.shiftLeft_eq, Nat.mul_comm]

/-- One byte. -/
theorem ofNat_leNat_one (b : Nat → Byte) : BitVec.ofNat (8 * 1) (leNat ((List.range 1).map b)) = b 0 :=
  BitVec.eq_of_toNat_eq (by simp [List.range_succ, leNat])

/-- Two bytes, the lower one first in memory. -/
theorem ofNat_leNat_two (b : Nat → Byte) : BitVec.ofNat (8 * 2) (leNat ((List.range 2).map b)) = b 1 ++ b 0 := by
  apply BitVec.eq_of_toNat_eq
  have h0 := (b 0).isLt
  have h1 := (b 1).isLt
  simp only [List.range_succ, List.range_zero, List.nil_append, List.cons_append, List.map_cons, List.map_nil, leNat,
    BitVec.toNat_ofNat, toNat_append_byte]
  omega

/-- Four bytes, the lowest one first in memory. -/
theorem ofNat_leNat_four (b : Nat → Byte) :
    BitVec.ofNat (8 * 4) (leNat ((List.range 4).map b)) = b 3 ++ b 2 ++ b 1 ++ b 0 := by
  apply BitVec.eq_of_toNat_eq
  have h0 := (b 0).isLt
  have h1 := (b 1).isLt
  have h2 := (b 2).isLt
  have h3 := (b 3).isLt
  simp only [List.range_succ, List.range_zero, List.nil_append, List.cons_append, List.map_cons, List.map_nil, leNat,
    BitVec.toNat_ofNat, toNat_append_byte]
  omega

/-- The low `k` bytes of a value stand for it, modulo what they can hold. -/
theorem leNat_valueBytes (v : BitVec n) (k : Nat) : leNat (valueBytes v k) = v.toNat % 256 ^ k := by
  have h256 : (256 : Nat) ^ k = 2 ^ (8 * k) := by rw [pow_mul]; rfl
  rw [← leBytes_extract, leNat_leBytes, BitVec.extractLsb'_toNat, h256, Nat.mod_mod, Nat.shiftRight_zero]

/-- Nothing of a word is lost modulo what its bytes can hold. -/
theorem ofNat_toNat_mod (w : BitVec n) {k : Nat} (hk : 256 ^ k = 2 ^ n) : BitVec.ofNat n (w.toNat % 256 ^ k) = w := by
  rw [hk, Nat.mod_eq_of_lt w.isLt, BitVec.ofNat_toNat, BitVec.setWidth_eq]

/-- Byte `k` of a value as a number. -/
theorem toNat_extractByte (v : BitVec n) (k : Nat) : (v.extractLsb' (8 * k) 8).toNat = v.toNat / 256 ^ k % 256 := by
  have h256 : (256 : Nat) ^ k = 2 ^ (8 * k) := by rw [pow_mul]; rfl
  rw [BitVec.extractLsb'_toNat, Nat.shiftRight_eq_div_pow, h256]

/-! ### Decoding from bytes -/

/-- The little-endian bytes of an RVL32 word hold it (30_encoding.md R80). -/
theorem takeWord_leBytes32 (w : Word32) (rest : List Byte) :
    takeWord .rvl32 (leBytes w.toNat 4 ++ rest) = .ok (.rvl32 w, rest) := by
  have hw : BitVec.ofNat 32 (leNat (leBytes w.toNat 4)) = w := by
    rw [leNat_leBytes, ofNat_toNat_mod w rfl]
  exact congrArg (fun w => Except.ok (CodeWord.rvl32 w, rest)) hw

/-- The little-endian bytes of a V16 word hold it (30_encoding.md R100). -/
theorem takeWord_leBytes16 (w : Word16) (rest : List Byte) :
    takeWord .v16 (leBytes w.toNat 2 ++ rest) = .ok (.v16 w, rest) := by
  have hw : BitVec.ofNat 16 (leNat (leBytes w.toNat 2)) = w := by
    rw [leNat_leBytes, ofNat_toNat_mod w rfl]
  exact congrArg (fun w => Except.ok (CodeWord.v16 w, rest)) hw

/-- Bytes that hold a word decode to what the word decodes to. -/
theorem decodeBytes_of_takeWord {m : Isa} {bs rest : List Byte} {w : CodeWord} (h : takeWord m bs = .ok (w, rest)) :
    decodeBytes m bs = (decode w).map fun i => (i, rest) := by
  simp only [decodeBytes, h]
  cases decode w <;> rfl

/-- Bytes that hold no word are rejected for the same reason. -/
theorem decodeBytes_of_takeWord_error {m : Isa} {bs : List Byte} {r : Reserved} (h : takeWord m bs = .error r) :
    decodeBytes m bs = .error r := by
  simp only [decodeBytes, h]

/-- Settles O6. The bytes of a word hold it, fewer bytes hold none. -/
theorem instructionBytes : Obligations.InstructionBytes := by
  refine ⟨fun w rest => decodeBytes_of_takeWord (takeWord_leBytes32 w rest),
    fun w rest => decodeBytes_of_takeWord (takeWord_leBytes16 w rest),
    fun bs hbs => decodeBytes_of_takeWord_error ?_, fun bs hbs => decodeBytes_of_takeWord_error ?_⟩
  · rcases bs with _ | ⟨_, _ | ⟨_, _ | ⟨_, _ | ⟨_, bs⟩⟩⟩⟩
    case cons.cons.cons.cons => simp only [List.length_cons] at hbs; omega
    all_goals rfl
  · rcases bs with _ | ⟨_, _ | ⟨_, bs⟩⟩
    case cons.cons => simp only [List.length_cons] at hbs; omega
    all_goals rfl

/-! ### Effective addresses -/

/-- A number added to a word, modulo the word's size. -/
theorem toNat_add_ofInt (v : BitVec n) (d : Int) : ((v + BitVec.ofInt n d).toNat : Int) = (v.toNat + d) % 2 ^ n := by
  have hpos : ((2 ^ n : Nat) : Int) ≠ 0 := by positivity
  rw [BitVec.toNat_add, BitVec.toNat_ofInt]
  rw [Int.natCast_emod, Int.natCast_add, Int.toNat_of_nonneg (Int.emod_nonneg _ hpos), Int.add_emod_emod]
  rfl

/-- Settles O24: sign extension keeps the number that the immediate stands for, zero extension its value. -/
theorem effectiveAddresses : Obligations.EffectiveAddresses := by
  refine ⟨fun h rs1 imm12 => toNat_add_ofInt (h.x rs1) imm12.toInt, fun h rs1 imm4 => ?_⟩
  have himm : imm4.toNat < 2 ^ 16 := by omega
  rw [address16, BitVec.toNat_add, BitVec.toNat_setWidth, Nat.mod_eq_of_lt himm]

end Sys2Proof.Machine

/-! A fetch and the step it belongs to (20_memory.md R56, R62; 60_exceptions.md R306): its three faults in their order, and
the instruction that ordinary memory holds at the pc. -/

namespace Sys2Proof.Machine

variable {n : Nat}

/-! ### The checks of a fetch -/

theorem Hart.checkFetch_misaligned (h : Hart n) (hp : h.pc.toNat % ilen n ≠ 0) :
    h.checkFetch = some (.misalignedFetch h.pc.toNat) := by
  rw [Hart.checkFetch, if_neg hp]

theorem Hart.checkFetch_invalid (h : Hart n) (hp : h.pc.toNat % ilen n = 0)
    (hv : h.platform.valid .fetch h.pc.toNat (ilen n) = false) : h.checkFetch = some (.accessFault h.pc.toNat) := by
  simp [Hart.checkFetch, hp, hv]

/-- Under `SMC_POLICY = refuse` a byte of the instruction that a store has written (20_memory.md R62). -/
theorem Hart.checkFetch_stored (h : Hart n) (hp : h.pc.toNat % ilen n = 0)
    (hv : h.platform.valid .fetch h.pc.toNat (ilen n) = true) (hs : h.platform.smc = .refuse)
    (hst : ∃ a ∈ h.stored, touched h.pc (ilen n) a) : h.checkFetch = some (.fetchAfterStore h.pc.toNat) := by
  obtain ⟨a, ha, hta⟩ := hst
  simp only [Hart.checkFetch, hp, hv, hs, if_true, ite_eq_left_iff, Bool.not_eq_true, List.any_eq_false,
    List.contains_iff_mem]
  exact fun hnone => absurd ha (hnone a ((mem_byteAddrs a _ _).2 hta))

/-- Under `SMC_POLICY = coherent` the bytes stored to are not asked for. -/
theorem Hart.checkFetch_coherent (h : Hart n) (hp : h.pc.toNat % ilen n = 0)
    (hv : h.platform.valid .fetch h.pc.toNat (ilen n) = true) (hs : h.platform.smc = .coherent) :
    h.checkFetch = none := by
  simp [Hart.checkFetch, hp, hv, hs]

/-! ### The word fetched -/

/-- A fetch from ordinary memory gives the word whose bytes stand at the pc, and changes nothing; `hn` says that the
instruction length is that of a word. -/
theorem Hart.fetch_of_byteAt {h : Hart n} {w : BitVec n} (hn : 256 ^ ilen n = 2 ^ n) (hc : h.checkFetch = none)
    (ho : h.OrdinaryAt h.pc (ilen n)) (hb : ∀ k, k < ilen n → h.byteAt h.pc k = w.extractLsb' (8 * k) 8) :
    h.fetch = .ok (w, h) := by
  have hbytes : (List.range (ilen n)).map (h.byteAt h.pc) = valueBytes w (ilen n) :=
    List.map_congr_left fun k hk => hb k (List.mem_range.1 hk)
  rw [Hart.fetch_ordinary h hc ho, hbytes, leNat_valueBytes, ofNat_toNat_mod w hn]

/-! ### The step -/

/-- A step of RVL32 that is neither stuck nor waiting fetches. -/
theorem step_eq_run32 {s : State} (hi : s.isa = .rvl32) (hf : s.rvl32.fault = none) (hw : s.waiting = false) :
    step s = s.run32 := by
  simp [step, hi, State.step32, hf, hw]

/-- A step of V16 that is not stuck fetches. -/
theorem step_eq_run16 {s : State} (hi : s.isa = .v16) (hf : s.v16.fault = none) : step s = s.run16 := by
  simp [step, hi, State.step16, hf]

/-- A step of RVL32 runs what the word it fetches decodes to, where the fetch changes nothing. -/
theorem step_of_fetch32 {s : State} {w : Word32} {i : Instr} (hi : s.isa = .rvl32) (hf : s.rvl32.fault = none)
    (hw : s.waiting = false) (hfetch : s.rvl32.fetch = .ok (w, s.rvl32)) (hd : decode (.rvl32 w) = .ok i) :
    step s = exec i s := by
  simp only [step_eq_run32 hi hf hw, State.run32, hfetch, hd]

/-- The same of V16. -/
theorem step_of_fetch16 {s : State} {w : Word16} {i : Instr} (hi : s.isa = .v16) (hf : s.v16.fault = none)
    (hfetch : s.v16.fetch = .ok (w, s.v16)) (hd : decode (.v16 w) = .ok i) : step s = exec i s := by
  simp only [step_eq_run16 hi hf, State.run16, hfetch, hd]

/-- RVL32 enters the fault of its fetch and nothing else changes. -/
theorem step_fetch_fault32 {s : State} {f : Fault} (hi : s.isa = .rvl32) (hf : s.rvl32.fault = none)
    (hw : s.waiting = false) (hc : s.rvl32.checkFetch = some f) : ∃ t, step s = .next t ∧ Faulted32 s t f := by
  refine ⟨{ s with rvl32 := s.rvl32.raise f }, ?_, rfl⟩
  simp only [step_eq_run32 hi hf hw, State.run32, Hart.fetch_fault _ f hc, State.next32_eq]

/-- V16 enters the fault of its fetch and nothing else changes. -/
theorem step_fetch_fault16 {s : State} {f : Fault} (hi : s.isa = .v16) (hf : s.v16.fault = none)
    (hc : s.v16.checkFetch = some f) : ∃ t, step s = .next t ∧ Faulted16 s t f := by
  refine ⟨{ s with v16 := s.v16.raise f }, ?_, rfl⟩
  simp only [step_eq_run16 hi hf, State.run16, Hart.fetch_fault _ f hc, State.next16_eq]

/-- Settles O9, by the checks of a fetch in R306's order. -/
theorem fetchFaultsInOrder : Obligations.FetchFaultsInOrder := by
  refine ⟨fun s hi hf hw => ⟨fun hp => ?_, fun hp hv => ?_, fun hp hv hs hst => ?_⟩,
    fun s hi hf => ⟨fun hp => ?_, fun hp hv => ?_, fun hp hv hs hst => ?_⟩⟩
  · exact step_fetch_fault32 hi hf hw (s.rvl32.checkFetch_misaligned hp)
  · exact step_fetch_fault32 hi hf hw (s.rvl32.checkFetch_invalid hp hv)
  · exact step_fetch_fault32 hi hf hw (s.rvl32.checkFetch_stored hp hv hs hst)
  · exact step_fetch_fault16 hi hf (s.v16.checkFetch_misaligned hp)
  · exact step_fetch_fault16 hi hf (s.v16.checkFetch_invalid hp hv)
  · exact step_fetch_fault16 hi hf (s.v16.checkFetch_stored hp hv hs hst)

/-- Settles O7: the fetch gives the word and leaves the state, so the step is the instruction's there. -/
theorem stepRunsDecodedInstruction32 : Obligations.StepRunsDecodedInstruction32 := by
  intro s i w hi hf hw hc ho hb _ hd
  exact step_of_fetch32 hi hf hw (Hart.fetch_of_byteAt rfl hc ho hb) hd

/-- Settles O8, likewise. -/
theorem stepRunsDecodedInstruction16 : Obligations.StepRunsDecodedInstruction16 := by
  intro s i w hi hf hc ho hb _ hd
  exact step_of_fetch16 hi hf (Hart.fetch_of_byteAt rfl hc ho hb) hd

end Sys2Proof.Machine

/-! Loads and stores (42_loads_stores.md, 49_v16_control_memory.md R279 to R283): each instruction as a load or a store of one
hart, listed with its width and its value; then what a load or a store of one hart does, whether it faults, touches ordinary
memory only, or touches a device (20_memory.md R51 to R59). -/

namespace Sys2Proof.Machine

variable {n : Nat}

/-! ### The instructions as loads and stores of their hart -/

/-- The RVL32 loads, each with its width and the value it gives `x[rd]` where the bytes read are `b 0`, `b 1`, and so on. -/
def loads32 (rd rs1 : Reg32) (imm12 : BitVec 12) (b : Nat → Byte) : List (Instr × Nat × Word32) :=
  [(.lb rd rs1 imm12, 1, BitVec.ofInt 32 (b 0).toInt), (.lbu rd rs1 imm12, 1, BitVec.ofNat 32 (b 0).toNat),
    (.lh rd rs1 imm12, 2, BitVec.ofInt 32 (b 1 ++ b 0).toInt), (.lhu rd rs1 imm12, 2, BitVec.ofNat 32 (b 1 ++ b 0).toNat),
    (.lw rd rs1 imm12, 4, b 3 ++ b 2 ++ b 1 ++ b 0)]

/-- The RVL32 stores, each with its width. -/
def stores32 (rd rs1 : Reg32) (imm12 : BitVec 12) : List (Instr × Nat) :=
  [(.sb rd rs1 imm12, 1), (.sh rd rs1 imm12, 2), (.sw rd rs1 imm12, 4)]

/-- The V16 loads, each with its width and the value it gives `x[rd]`. -/
def loads16 (rd rs1 : Reg16) (imm4 : BitVec 4) (b : Nat → Byte) : List (Instr × Nat × Word16) :=
  [(.v16Lb rd rs1 imm4, 1, BitVec.ofInt 16 (b 0).toInt), (.v16Lw rd rs1 imm4, 2, b 1 ++ b 0)]

/-- The V16 stores, each with its width. -/
def stores16 (rd rs1 : Reg16) (imm4 : BitVec 4) : List (Instr × Nat) :=
  [(.v16Sb rd rs1 imm4, 1), (.v16Sw rd rs1 imm4, 2)]

theorem lbu_mem_loads32 (rd rs1 : Reg32) (imm12 : BitVec 12) (b : Nat → Byte) :
    (.lbu rd rs1 imm12, 1, BitVec.ofNat 32 (b 0).toNat) ∈ loads32 rd rs1 imm12 b := by
  simp [loads32]

theorem lh_mem_loads32 (rd rs1 : Reg32) (imm12 : BitVec 12) (b : Nat → Byte) :
    (.lh rd rs1 imm12, 2, BitVec.ofInt 32 (b 1 ++ b 0).toInt) ∈ loads32 rd rs1 imm12 b := by
  simp [loads32]

theorem lhu_mem_loads32 (rd rs1 : Reg32) (imm12 : BitVec 12) (b : Nat → Byte) :
    (.lhu rd rs1 imm12, 2, BitVec.ofNat 32 (b 1 ++ b 0).toNat) ∈ loads32 rd rs1 imm12 b := by
  simp [loads32]

theorem lw_mem_loads32 (rd rs1 : Reg32) (imm12 : BitVec 12) (b : Nat → Byte) :
    (.lw rd rs1 imm12, 4, b 3 ++ b 2 ++ b 1 ++ b 0) ∈ loads32 rd rs1 imm12 b := by
  simp [loads32]

theorem sh_mem_stores32 (rd rs1 : Reg32) (imm12 : BitVec 12) : (.sh rd rs1 imm12, 2) ∈ stores32 rd rs1 imm12 := by
  simp [stores32]

theorem sw_mem_stores32 (rd rs1 : Reg32) (imm12 : BitVec 12) : (.sw rd rs1 imm12, 4) ∈ stores32 rd rs1 imm12 := by
  simp [stores32]

theorem lb_mem_loads16 (rd rs1 : Reg16) (imm4 : BitVec 4) (b : Nat → Byte) :
    (.v16Lb rd rs1 imm4, 1, BitVec.ofInt 16 (b 0).toInt) ∈ loads16 rd rs1 imm4 b := by
  simp [loads16]

theorem lw_mem_loads16 (rd rs1 : Reg16) (imm4 : BitVec 4) (b : Nat → Byte) :
    (.v16Lw rd rs1 imm4, 2, b 1 ++ b 0) ∈ loads16 rd rs1 imm4 b := by
  simp [loads16]

theorem sw_mem_stores16 (rd rs1 : Reg16) (imm4 : BitVec 4) : (.v16Sw rd rs1 imm4, 2) ∈ stores16 rd rs1 imm4 := by
  simp [stores16]

/-- Each RVL32 load is the hart's load of its width at the effective address, widened to the value listed. -/
theorem exec_loads32 {rd rs1 : Reg32} {imm12 : BitVec 12} {b : Nat → Byte} {iv : Instr × Nat × Word32}
    (h : iv ∈ loads32 rd rs1 imm12 b) : ∃ ext : BitVec (8 * iv.2.1) → Word32,
      (∀ s, exec iv.1 s = s.next32 (s.rvl32.loadInto rd (address32 s.rvl32 rs1 imm12) iv.2.1 ext)) ∧
        ext (BitVec.ofNat (8 * iv.2.1) (leNat ((List.range iv.2.1).map b))) = iv.2.2 := by
  simp only [loads32, List.mem_cons, List.not_mem_nil, or_false] at h
  rcases h with rfl | rfl | rfl | rfl | rfl
  · exact ⟨_, fun _ => rfl, congrArg (BitVec.signExtend 32) (ofNat_leNat_one b)⟩
  · exact ⟨_, fun _ => rfl, (congrArg (BitVec.setWidth 32) (ofNat_leNat_one b)).trans (BitVec.ofNat_toNat 32 _).symm⟩
  · exact ⟨_, fun _ => rfl, congrArg (BitVec.signExtend 32) (ofNat_leNat_two b)⟩
  · exact ⟨_, fun _ => rfl, (congrArg (BitVec.setWidth 32) (ofNat_leNat_two b)).trans (BitVec.ofNat_toNat 32 _).symm⟩
  · exact ⟨_, fun _ => rfl, (BitVec.setWidth_eq _).trans (ofNat_leNat_four b)⟩

/-- Each RVL32 store is the hart's store of its width at the effective address. -/
theorem exec_stores32 {rd rs1 : Reg32} {imm12 : BitVec 12} {iw : Instr × Nat} (h : iw ∈ stores32 rd rs1 imm12) :
    iw.2 ≤ 4 ∧ ∀ s, exec iw.1 s = s.next32 (s.rvl32.storeFrom (s.rvl32.x rd) (address32 s.rvl32 rs1 imm12) iw.2) := by
  simp only [stores32, List.mem_cons, List.not_mem_nil, or_false] at h
  rcases h with rfl | rfl | rfl <;> exact ⟨by simp, fun _ => rfl⟩

/-- Each V16 load is the hart's load of its width at the effective address, widened to the value listed. -/
theorem exec_loads16 {rd rs1 : Reg16} {imm4 : BitVec 4} {b : Nat → Byte} {iv : Instr × Nat × Word16}
    (h : iv ∈ loads16 rd rs1 imm4 b) : ∃ ext : BitVec (8 * iv.2.1) → Word16,
      (∀ s, exec iv.1 s = s.next16 (s.v16.loadInto rd (address16 s.v16 rs1 imm4) iv.2.1 ext)) ∧
        ext (BitVec.ofNat (8 * iv.2.1) (leNat ((List.range iv.2.1).map b))) = iv.2.2 := by
  simp only [loads16, List.mem_cons, List.not_mem_nil, or_false] at h
  rcases h with rfl | rfl
  · exact ⟨_, fun _ => rfl, congrArg (BitVec.signExtend 16) (ofNat_leNat_one b)⟩
  · exact ⟨_, fun _ => rfl, (BitVec.setWidth_eq _).trans (ofNat_leNat_two b)⟩

/-- Each V16 store is the hart's store of its width at the effective address. -/
theorem exec_stores16 {rd rs1 : Reg16} {imm4 : BitVec 4} {iw : Instr × Nat} (h : iw ∈ stores16 rd rs1 imm4) :
    iw.2 ≤ 2 ∧ ∀ s, exec iw.1 s = s.next16 (s.v16.storeFrom (s.v16.x rd) (address16 s.v16 rs1 imm4) iw.2) := by
  simp only [stores16, List.mem_cons, List.not_mem_nil, or_false] at h
  rcases h with rfl | rfl <;> exact ⟨by simp, fun _ => rfl⟩

/-! ### Faults -/

/-- Under `MISALIGNED_POLICY = fault` alignment is all that is asked of a misaligned access (20_memory.md R54). -/
theorem Hart.checkAccess_misaligned (h : Hart n) (kind : AccessKind) (addr : BitVec n) (width : Nat)
    (hm : h.platform.misaligned = .fault) (ha : addr.toNat % width ≠ 0) :
    h.checkAccess kind addr width = some (.misalignedAccess addr.toNat) := by
  rw [Hart.checkAccess, if_neg ha, hm]

/-- An aligned access that is not valid (20_memory.md R55). -/
theorem Hart.checkAccess_invalid (h : Hart n) (kind : AccessKind) (addr : BitVec n) (width : Nat)
    (ha : addr.toNat % width = 0) (hv : h.platform.valid kind addr.toNat width = false) :
    h.checkAccess kind addr width = some (.accessFault addr.toNat) := by
  simp [Hart.checkAccess, ha, hv]

/-- A split access whose first invalid byte is the one at `addr + k` (20_memory.md R54, R55; log 13). -/
theorem Hart.checkAccess_split_invalid (h : Hart n) (kind : AccessKind) (addr : BitVec n) (width k : Nat)
    (hm : h.platform.misaligned = .bytewise) (ha : addr.toNat % width ≠ 0) (hk : k < width)
    (hv : ∀ j, j < k → h.platform.valid kind (addr + BitVec.ofNat n j).toNat 1 = true)
    (hf : h.platform.valid kind (addr + BitVec.ofNat n k).toNat 1 = false) :
    h.checkAccess kind addr width = some (.accessFault (addr + BitVec.ofNat n k).toNat) := by
  rw [Hart.checkAccess, if_neg ha, hm]
  exact Hart.checkBytes_fault h kind width k addr hk hv hf

/-- The RVL32 loads and stores, each with its kind and width. -/
def accesses32 (rd rs1 : Reg32) (imm12 : BitVec 12) : List (Instr × AccessKind × Nat) :=
  [(.lb rd rs1 imm12, .load, 1), (.lbu rd rs1 imm12, .load, 1), (.lh rd rs1 imm12, .load, 2),
    (.lhu rd rs1 imm12, .load, 2), (.lw rd rs1 imm12, .load, 4), (.sb rd rs1 imm12, .store, 1),
    (.sh rd rs1 imm12, .store, 2), (.sw rd rs1 imm12, .store, 4)]

/-- The V16 loads and stores, each with its kind and width. -/
def accesses16 (rd rs1 : Reg16) (imm4 : BitVec 4) : List (Instr × AccessKind × Nat) :=
  [(.v16Lb rd rs1 imm4, .load, 1), (.v16Lw rd rs1 imm4, .load, 2), (.v16Sb rd rs1 imm4, .store, 1),
    (.v16Sw rd rs1 imm4, .store, 2)]

/-- An RVL32 load or store whose check fails enters that fault and nothing else changes (42_loads_stores.md R151, R157). -/
theorem exec_access_fault32 {s : State} {rd rs1 : Reg32} {imm12 : BitVec 12} {iw : Instr × AccessKind × Nat} {f : Fault}
    (h : iw ∈ accesses32 rd rs1 imm12)
    (hf : s.rvl32.checkAccess iw.2.1 (address32 s.rvl32 rs1 imm12) iw.2.2 = some f) :
    ∃ t, exec iw.1 s = .next t ∧ Faulted32 s t f := by
  refine ⟨{ s with rvl32 := s.rvl32.raise f }, ?_, rfl⟩
  simp only [accesses32, List.mem_cons, List.not_mem_nil, or_false] at h
  rcases h with rfl | rfl | rfl | rfl | rfl | rfl | rfl | rfl
  iterate 5 exact congrArg s.next32 (Hart.loadInto_fault _ _ _ _ _ f hf)
  all_goals exact congrArg s.next32 (Hart.storeFrom_fault _ _ _ _ f hf)

/-- A V16 load or store whose check fails enters that fault and nothing else changes (49_v16_control_memory.md R279). -/
theorem exec_access_fault16 {s : State} {rd rs1 : Reg16} {imm4 : BitVec 4} {iw : Instr × AccessKind × Nat} {f : Fault}
    (h : iw ∈ accesses16 rd rs1 imm4)
    (hf : s.v16.checkAccess iw.2.1 (address16 s.v16 rs1 imm4) iw.2.2 = some f) :
    ∃ t, exec iw.1 s = .next t ∧ Faulted16 s t f := by
  refine ⟨{ s with v16 := s.v16.raise f }, ?_, rfl⟩
  simp only [accesses16, List.mem_cons, List.not_mem_nil, or_false] at h
  rcases h with rfl | rfl | rfl | rfl
  iterate 2 exact congrArg s.next16 (Hart.loadInto_fault _ _ _ _ _ f hf)
  all_goals exact congrArg s.next16 (Hart.storeFrom_fault _ _ _ _ f hf)

/-- Settles O29: each clause is a check that fails. -/
theorem dataFaultsInOrder : Obligations.DataFaultsInOrder := by
  constructor
  · intro s rd rs1 imm12 addr p iw hiw
    refine ⟨fun hm ha => ?_, fun ha hv => ?_, fun k hm ha hk hv hf => ?_⟩
    · exact exec_access_fault32 hiw (Hart.checkAccess_misaligned _ _ _ _ hm ha)
    · exact exec_access_fault32 hiw (Hart.checkAccess_invalid _ _ _ _ ha hv)
    · exact exec_access_fault32 hiw (Hart.checkAccess_split_invalid _ _ _ _ k hm ha hk hv hf)
  · intro s rd rs1 imm4 addr p iw hiw
    refine ⟨fun hm ha => ?_, fun ha hv => ?_, fun k hm ha hk hv hf => ?_⟩
    · exact exec_access_fault16 hiw (Hart.checkAccess_misaligned _ _ _ _ hm ha)
    · exact exec_access_fault16 hiw (Hart.checkAccess_invalid _ _ _ _ ha hv)
    · exact exec_access_fault16 hiw (Hart.checkAccess_split_invalid _ _ _ _ k hm ha hk hv hf)

/-! ### Ordinary memory -/

/-- A store to ordinary memory writes the low bytes of its value and goes on. -/
theorem Hart.storeFrom_ordinary (h : Hart n) (v addr : BitVec n) (width : Nat)
    (ok : h.AccessOk .store addr width ∨ h.SplitOk .store addr width) (ho : h.OrdinaryAt addr width) :
    h.storeFrom v addr width = (h.writeBytes addr (valueBytes v width)).advance := by
  rw [Hart.storeFrom_ok h v addr width (Hart.checkAccess_ok h _ _ _ ok), Hart.writeData_ordinary h v addr width ho]

/-- An RVL32 load from ordinary memory, aligned or split, gives `x[rd]` its value. -/
theorem exec_load_ordinary32 {s : State} {rd rs1 : Reg32} {imm12 : BitVec 12} {iv : Instr × Nat × Word32}
    (hiv : iv ∈ loads32 rd rs1 imm12 (s.rvl32.byteAt (address32 s.rvl32 rs1 imm12)))
    (ok : s.rvl32.AccessOk .load (address32 s.rvl32 rs1 imm12) iv.2.1 ∨
      s.rvl32.SplitOk .load (address32 s.rvl32 rs1 imm12) iv.2.1)
    (ho : s.rvl32.OrdinaryAt (address32 s.rvl32 rs1 imm12) iv.2.1) :
    ∃ t, exec iv.1 s = .next t ∧ Wrote32 s t rd iv.2.2 (s.rvl32.pc + 4#32) := by
  obtain ⟨ext, hexec, hext⟩ := exec_loads32 hiv
  exact ⟨_, (hexec s).trans (congrArg s.next32 (Hart.loadInto_ordinary _ _ _ _ ext ok ho)), wrote32_writeNext s rd hext⟩

/-- An RVL32 store to ordinary memory, aligned or split, stores its bytes. -/
theorem exec_store_ordinary32 {s : State} {rd rs1 : Reg32} {imm12 : BitVec 12} {iw : Instr × Nat}
    (hiw : iw ∈ stores32 rd rs1 imm12) (hm : Memory.wf 32 s.rvl32.mem = true)
    (ok : s.rvl32.AccessOk .store (address32 s.rvl32 rs1 imm12) iw.2 ∨
      s.rvl32.SplitOk .store (address32 s.rvl32 rs1 imm12) iw.2)
    (ho : s.rvl32.OrdinaryAt (address32 s.rvl32 rs1 imm12) iw.2) :
    ∃ t, exec iw.1 s = .next t ∧ Stored32 s t (s.rvl32.x rd) (address32 s.rvl32 rs1 imm12) iw.2 := by
  obtain ⟨hw, hexec⟩ := exec_stores32 hiw
  exact ⟨_, (hexec s).trans (congrArg s.next32 (Hart.storeFrom_ordinary _ _ _ _ ok ho)),
    stored32_writeBytes s _ _ _ hm hw ho⟩

/-- A V16 load from ordinary memory, aligned or split, gives `x[rd]` its value. -/
theorem exec_load_ordinary16 {s : State} {rd rs1 : Reg16} {imm4 : BitVec 4} {iv : Instr × Nat × Word16}
    (hiv : iv ∈ loads16 rd rs1 imm4 (s.v16.byteAt (address16 s.v16 rs1 imm4)))
    (ok : s.v16.AccessOk .load (address16 s.v16 rs1 imm4) iv.2.1 ∨
      s.v16.SplitOk .load (address16 s.v16 rs1 imm4) iv.2.1)
    (ho : s.v16.OrdinaryAt (address16 s.v16 rs1 imm4) iv.2.1) :
    ∃ t, exec iv.1 s = .next t ∧ Wrote16 s t rd iv.2.2 (s.v16.pc + 2#16) := by
  obtain ⟨ext, hexec, hext⟩ := exec_loads16 hiv
  exact ⟨_, (hexec s).trans (congrArg s.next16 (Hart.loadInto_ordinary _ _ _ _ ext ok ho)), wrote16_writeNext s rd hext⟩

/-- A V16 store to ordinary memory, aligned or split, stores its bytes. -/
theorem exec_store_ordinary16 {s : State} {rd rs1 : Reg16} {imm4 : BitVec 4} {iw : Instr × Nat}
    (hiw : iw ∈ stores16 rd rs1 imm4) (hm : Memory.wf 16 s.v16.mem = true)
    (ok : s.v16.AccessOk .store (address16 s.v16 rs1 imm4) iw.2 ∨
      s.v16.SplitOk .store (address16 s.v16 rs1 imm4) iw.2)
    (ho : s.v16.OrdinaryAt (address16 s.v16 rs1 imm4) iw.2) :
    ∃ t, exec iw.1 s = .next t ∧ Stored16 s t (s.v16.x rd) (address16 s.v16 rs1 imm4) iw.2 := by
  obtain ⟨hw, hexec⟩ := exec_stores16 hiw
  exact ⟨_, (hexec s).trans (congrArg s.next16 (Hart.storeFrom_ordinary _ _ _ _ ok ho)),
    stored16_writeBytes s _ _ _ hm hw ho⟩

/-- Settles O30: the bytes are each valid, so the access is split, and its results are those of any access to ordinary
memory. -/
theorem bytewiseAccesses : Obligations.BytewiseAccesses := by
  constructor
  · intro s rd rs1 imm12 h addr hb hm
    refine ⟨fun ha ho => ⟨fun hv => ?_, fun hv => ?_⟩, fun ha ho => ⟨fun hv => ⟨?_, ?_⟩, fun hv => ?_⟩⟩
    · exact exec_load_ordinary32 (lw_mem_loads32 rd rs1 imm12 (h.byteAt addr)) (.inr ⟨hb, ha, hv⟩) ho
    · exact exec_store_ordinary32 (sw_mem_stores32 rd rs1 imm12) hm (.inr ⟨hb, ha, hv⟩) ho
    · exact exec_load_ordinary32 (lh_mem_loads32 rd rs1 imm12 (h.byteAt addr)) (.inr ⟨hb, ha, hv⟩) ho
    · exact exec_load_ordinary32 (lhu_mem_loads32 rd rs1 imm12 (h.byteAt addr)) (.inr ⟨hb, ha, hv⟩) ho
    · exact exec_store_ordinary32 (sh_mem_stores32 rd rs1 imm12) hm (.inr ⟨hb, ha, hv⟩) ho
  · intro s rd rs1 imm4 h addr hb hm ha ho
    refine ⟨fun hv => ?_, fun hv => ?_⟩
    · exact exec_load_ordinary16 (lw_mem_loads16 rd rs1 imm4 (h.byteAt addr)) (.inr ⟨hb, ha, hv⟩) ho
    · exact exec_store_ordinary16 (sw_mem_stores16 rd rs1 imm4) hm (.inr ⟨hb, ha, hv⟩) ho

/-! ### Devices -/

/-- An aligned load that touches a device: one access is handed to the platform (20_memory.md R58, R59; log 7). -/
theorem Hart.loadInto_device_access (h : Hart n) (rd : Fin n) (addr : BitVec n) (width : Nat)
    (ext : BitVec (8 * width) → BitVec n) (ok : h.AccessOk .load addr width) (ho : ¬ h.OrdinaryAt addr width) :
    h.CompletedLoad (h.loadInto rd addr width ext) rd
      (ext (BitVec.ofNat (8 * width) (leNat ((List.range width).map (h.byteSeen addr))))) addr width
      [.read addr.toNat width] := by
  obtain ⟨aligned, -⟩ := id ok
  rw [Hart.loadInto_ok h rd addr width ext (Hart.checkAccess_ok h _ _ _ (.inl ok)), Hart.readData, if_pos aligned,
    Hart.readAccess_eq, Hart.noteIo_device h _ _ _ ho]
  exact Hart.completedLoad_writeNext h rd _ addr width [.read addr.toNat width]

/-- A split load: a read of each device byte is handed to the platform (20_memory.md R54, R59; log 7). -/
theorem Hart.loadInto_split (h : Hart n) (rd : Fin n) (addr : BitVec n) (width : Nat)
    (ext : BitVec (8 * width) → BitVec n) (ok : h.SplitOk .load addr width) :
    h.CompletedLoad (h.loadInto rd addr width ext) rd
      (ext (BitVec.ofNat (8 * width) (leNat ((List.range width).map (h.byteSeen addr))))) addr width
      (h.splitReads addr width) := by
  obtain ⟨-, misaligned, -⟩ := id ok
  rw [Hart.loadInto_ok h rd addr width ext (Hart.checkAccess_ok h _ _ _ (.inr ok)), Hart.readData, if_neg misaligned,
    Hart.readSplit_eq]
  exact Hart.completedLoad_writeNext h rd _ addr width _

/-- An aligned store that touches a device: one access is handed to the platform (20_memory.md R58, 10_state.md R42). -/
theorem Hart.storeFrom_device_access (h : Hart n) (v addr : BitVec n) (width : Nat) (hm : Memory.wf n h.mem = true)
    (hw : width ≤ 2 ^ n) (ok : h.AccessOk .store addr width) (ho : ¬ h.OrdinaryAt addr width) :
    h.CompletedStore (h.storeFrom v addr width) v addr width [.write addr.toNat (valueBytes v width)] := by
  obtain ⟨aligned, -⟩ := id ok
  rw [Hart.storeFrom_ok h v addr width (Hart.checkAccess_ok h _ _ _ (.inl ok)), Hart.writeData, valueBytes_length,
    if_pos aligned, Hart.writeAccess_eq, valueBytes_length, if_pos ((Hart.touchesDevice_iff h addr width).2 ho)]
  exact Hart.completedStore_writeBytes h v addr width [.write addr.toNat (valueBytes v width)] hm hw

/-- A split store: a write of each device byte is handed to the platform (20_memory.md R54, 10_state.md R42). -/
theorem Hart.storeFrom_split (h : Hart n) (v addr : BitVec n) (width : Nat) (hm : Memory.wf n h.mem = true)
    (hw : width ≤ 2 ^ n) (ok : h.SplitOk .store addr width) :
    h.CompletedStore (h.storeFrom v addr width) v addr width (h.splitWrites v addr width) := by
  obtain ⟨-, misaligned, -⟩ := id ok
  rw [Hart.storeFrom_ok h v addr width (Hart.checkAccess_ok h _ _ _ (.inr ok)), Hart.writeData, valueBytes_length,
    if_neg misaligned, Hart.writeSplit_eq]
  exact Hart.completedStore_writeBytes h v addr width _ hm hw

/-- A new RVL32 hart leaves everything around it. -/
theorem State.sameAround32_rvl32 (s : State) (g : Hart 32) : s.SameAround32 { s with rvl32 := g } :=
  ⟨rfl, rfl, rfl, rfl, rfl, rfl⟩

/-- A new V16 hart leaves everything around it. -/
theorem State.sameAround16_v16 (s : State) (g : Hart 16) : s.SameAround16 { s with v16 := g } :=
  ⟨rfl, rfl, rfl, rfl, rfl, rfl⟩

/-- Settles O33: each instruction is a load or a store of its hart, aligned or split. -/
theorem deviceAccesses : Obligations.DeviceAccesses := by
  constructor
  · intro s rd rs1 imm12 h addr b
    refine ⟨fun iv hiv ho => ?_, fun iw hiw ho hm => ?_⟩
    · obtain ⟨ext, hexec, hext⟩ := exec_loads32 (b := b) hiv
      rw [← hext]
      exact ⟨fun ok => ⟨_, hexec s, s.sameAround32_rvl32 _, h.loadInto_device_access rd addr _ ext ok ho⟩,
        fun ok => ⟨_, hexec s, s.sameAround32_rvl32 _, h.loadInto_split rd addr _ ext ok⟩⟩
    · obtain ⟨hw, hexec⟩ := exec_stores32 hiw
      exact ⟨fun ok => ⟨_, hexec s, s.sameAround32_rvl32 _, h.storeFrom_device_access _ addr _ hm (by omega) ok ho⟩,
        fun ok => ⟨_, hexec s, s.sameAround32_rvl32 _, h.storeFrom_split _ addr _ hm (by omega) ok⟩⟩
  · intro s rd rs1 imm4 h addr b
    refine ⟨fun iv hiv ho => ?_, fun iw hiw ho hm => ?_⟩
    · obtain ⟨ext, hexec, hext⟩ := exec_loads16 (b := b) hiv
      rw [← hext]
      exact ⟨fun ok => ⟨_, hexec s, s.sameAround16_v16 _, h.loadInto_device_access rd addr _ ext ok ho⟩,
        fun ok => ⟨_, hexec s, s.sameAround16_v16 _, h.loadInto_split rd addr _ ext ok⟩⟩
    · obtain ⟨hw, hexec⟩ := exec_stores16 hiw
      exact ⟨fun ok => ⟨_, hexec s, s.sameAround16_v16 _, h.storeFrom_device_access _ addr _ hm (by omega) ok ho⟩,
        fun ok => ⟨_, hexec s, s.sameAround16_v16 _, h.storeFrom_split _ addr _ hm (by omega) ok⟩⟩

end Sys2Proof.Machine

/-! Memory from one instruction to the next (20_memory.md R51 to R53, R62, R63): only stores change it, a load sees the bytes
that a store left, and so does a fetch where it may be made. -/

namespace Sys2Proof.Machine

variable {n : Nat}

/-! ### What changes memory -/

/-- A load changes no byte of memory. -/
theorem Hart.loadInto_mem (h : Hart n) (rd : Fin n) (addr : BitVec n) (width : Nat)
    (ext : BitVec (8 * width) → BitVec n) : (h.loadInto rd addr width ext).mem = h.mem := by
  rcases h.loadInto_cases rd addr width ext with ⟨f, e⟩ | ⟨v, draws, io, e⟩ <;> rw [e]
  · exact Hart.raise_mem h f
  · exact Hart.writeNext_mem _ rd v

/-- A store that does not fault writes the low bytes of its value, may be noted, and goes on. -/
theorem Hart.storeFrom_of_no_fault {h : Hart n} {v addr : BitVec n} {width : Nat}
    (hf : (h.storeFrom v addr width).fault = none) : ∃ io, h.storeFrom v addr width =
      Hart.advance { h.writeBytes addr (valueBytes v width) with io := io } := by
  rcases hc : h.checkAccess .store addr width with _ | f
  · obtain ⟨io, e⟩ := h.writeData_eq v addr width
    exact ⟨io, by rw [Hart.storeFrom_ok h v addr width hc, e]⟩
  · rw [Hart.storeFrom_fault h v addr width f hc] at hf
    cases hf

/-- A store, faulting or not, leaves every byte outside its own. -/
theorem Hart.storeFrom_read_other (h : Hart n) (v addr : BitVec n) (width a : Nat) (hm : Memory.wf n h.mem = true)
    (ha : ¬ touched addr width a) : (h.storeFrom v addr width).mem.read a = h.mem.read a := by
  rcases hc : h.checkAccess .store addr width with _ | f
  · obtain ⟨io, e⟩ := h.writeData_eq v addr width
    rw [Hart.storeFrom_ok h v addr width hc, e]
    exact Hart.writeBytes_read_other (valueBytes v width) h addr a hm (by simpa using ha)
  · rw [Hart.storeFrom_fault h v addr width f hc, Hart.raise_mem]

/-- An effect leaves every byte outside those the tables say it stores. -/
theorem Hart.Effect.read_other {h g : Hart n} {rd : Option (Fin n)} {pcSet : Bool} {span : Option (BitVec n × Nat)}
    (e : h.Effect g rd pcSet span) (hm : Memory.wf n h.mem = true) (a : Nat)
    (ha : ∀ addr width, span = some (addr, width) → ¬ touched addr width a) : g.mem.read a = h.mem.read a := by
  rcases e with ⟨f, rfl⟩ | ⟨r, v, -, -, -, rfl⟩ | ⟨r, -, -, -, rfl⟩ | ⟨r, addr, width, ext, -, -, -, -, rfl⟩ |
    ⟨v, addr, width, -, -, hspan, -, rfl⟩ | ⟨r, t, -, -, -, -, rfl⟩ | ⟨t, -, -, -, -, rfl⟩
  · rw [Hart.raise_mem]
  · rw [Hart.writeNext_mem]
  · rw [Hart.drawNext_mem]
  · rw [Hart.loadInto_mem]
  · exact h.storeFrom_read_other v addr width a hm (ha addr width hspan)
  · rw [Hart.link_mem]
  · rw [Hart.jump_mem]

/-- A change that writes a register changes no byte of memory. -/
theorem Hart.Change.mem_of_writes {h g : Hart n} {r : Fin n} {pcSet : Bool} (c : h.Change g (some r) pcSet) :
    g.mem = h.mem := by
  cases c with
  | raised f => exact Hart.raise_mem h f
  | wrote r v => exact Hart.writeNext_mem _ r v
  | linked r t => exact Hart.link_mem h r t

/-- An RVL32 instruction leaves every RVL32 byte outside its store's, and the whole of V16. -/
theorem exec_read_other32 {i : Instr} {s t : State} (hi : i.isa = .rvl32) (h : exec i s = .next t)
    (hm : Memory.wf 32 s.rvl32.mem = true) : t.v16 = s.v16 ∧
      ∀ a, (∀ addr width, storeSpan32 s.rvl32 i = some (addr, width) → ¬ touched addr width a) →
        t.rvl32.mem.read a = s.rvl32.mem.read a := by
  rcases exec_effect32 i s hi with ⟨g, e, he⟩ | ⟨e, rfl⟩ | ⟨rd, c, new, e, -, -, -⟩ <;> rw [e] at h
  · cases h
    exact ⟨rfl, he.read_other hm⟩
  · cases h
    exact ⟨rfl, fun a _ => by rw [Hart.advance_mem]⟩
  · obtain ⟨csrs, g, rfl, hg, -⟩ := State.csrAccess_change h
    exact ⟨rfl, fun a _ => by rw [hg.mem_of_writes]⟩

/-- A V16 instruction leaves every V16 byte outside its store's, and the whole RVL32 hart. -/
theorem exec_read_other16 {i : Instr} {s t : State} (hi : i.isa = .v16) (h : exec i s = .next t)
    (hm : Memory.wf 16 s.v16.mem = true) : t.rvl32 = s.rvl32 ∧
      ∀ a, (∀ addr width, storeSpan16 s.v16 i = some (addr, width) → ¬ touched addr width a) →
        t.v16.mem.read a = s.v16.mem.read a := by
  obtain ⟨g, e, he⟩ := exec_effect16 i s hi
  cases e.symm.trans h
  exact ⟨rfl, he.read_other hm⟩

/-- Settles O22, by the machine of the instruction. -/
theorem memoryChangesOnlyAtStores : Obligations.MemoryChangesOnlyAtStores := by
  intro i s t h hm32 hm16
  cases hi : i.isa with
  | rvl32 =>
    obtain ⟨hsame, hread⟩ := exec_read_other32 hi h hm32
    exact ⟨hread, fun a _ => by rw [hsame]⟩
  | v16 =>
    obtain ⟨hsame, hread⟩ := exec_read_other16 hi h hm16
    exact ⟨fun a _ => by rw [hsame], hread⟩

/-! ### A load after a store -/

/-- Part of an access to ordinary memory, as a hart with the same platform sees it. -/
theorem Hart.OrdinaryAt.part {h g : Hart n} {addr : BitVec n} {width : Nat} (ho : h.OrdinaryAt addr width)
    (hp : g.platform = h.platform) {k part : Nat} (hk : k + part ≤ width) :
    g.OrdinaryAt (addr + BitVec.ofNat n k) part := by
  intro j hj
  rw [BitVec.add_assoc, ← BitVec.ofNat_add, hp]
  exact ho (k + j) (by omega)

/-- Byte `j` from `addr + k` on is byte `k + j` from `addr` on. -/
theorem Hart.byteAt_add (h : Hart n) (addr : BitVec n) (k j : Nat) :
    h.byteAt (addr + BitVec.ofNat n k) j = h.byteAt addr (k + j) := by
  rw [Hart.byteAt, Hart.byteAt, BitVec.add_assoc, ← BitVec.ofNat_add]

theorem address32_zero (h : Hart 32) (rs1 : Reg32) : address32 h rs1 0#12 = h.x rs1 := BitVec.add_zero _

theorem address16_zero (h : Hart 16) (rs1 : Reg16) : address16 h rs1 0#4 = h.x rs1 := BitVec.add_zero _

/-- After an RVL32 store, a load of bytes it stored, from byte `k` on, gives `x[rd]` its value. -/
theorem exec_load_of_stored32 {s t u : State} {v A : Word32} {width k : Nat} {rd rs : Reg32} {iv : Instr × Nat × Word32}
    (hst : Stored32 s t v A width) (ho : s.rvl32.OrdinaryAt A width) (hk : k + iv.2.1 ≤ width)
    (hrs : t.rvl32.x rs = A + BitVec.ofNat 32 k)
    (hiv : iv ∈ loads32 rd rs 0#12 (t.rvl32.byteAt (A + BitVec.ofNat 32 k)))
    (hok : s.rvl32.AccessOk .load (A + BitVec.ofNat 32 k) iv.2.1) (hrd : rd ≠ 0) (hu : exec iv.1 t = .next u) :
    u.rvl32.x rd = iv.2.2 := by
  obtain ⟨-, -, -, -, -, hplatform, -⟩ := hst
  have haddr : address32 t.rvl32 rs 0#12 = A + BitVec.ofNat 32 k := (address32_zero _ _).trans hrs
  have hok' : t.rvl32.AccessOk .load (A + BitVec.ofNat 32 k) iv.2.1 := by
    rw [Hart.AccessOk, hplatform]
    exact hok
  rw [← haddr] at hiv hok'
  obtain ⟨u', hu', hx, -⟩ := exec_load_ordinary32 hiv (.inl hok') (haddr ▸ ho.part hplatform hk)
  cases hu.symm.trans hu'
  exact hx fun e => hrd (Fin.ext e)

/-- After an V16 store, a load of bytes it stored, from byte `k` on, gives `x[rd]` its value. -/
theorem exec_load_of_stored16 {s t u : State} {v A : Word16} {width k : Nat} {rd rs : Reg16} {iv : Instr × Nat × Word16}
    (hst : Stored16 s t v A width) (ho : s.v16.OrdinaryAt A width) (hk : k + iv.2.1 ≤ width)
    (hrs : t.v16.x rs = A + BitVec.ofNat 16 k)
    (hiv : iv ∈ loads16 rd rs 0#4 (t.v16.byteAt (A + BitVec.ofNat 16 k)))
    (hok : s.v16.AccessOk .load (A + BitVec.ofNat 16 k) iv.2.1) (hrd : rd ≠ 0) (hu : exec iv.1 t = .next u) :
    u.v16.x rd = iv.2.2 := by
  obtain ⟨-, -, -, -, -, hplatform, -⟩ := hst
  have haddr : address16 t.v16 rs 0#4 = A + BitVec.ofNat 16 k := (address16_zero _ _).trans hrs
  have hok' : t.v16.AccessOk .load (A + BitVec.ofNat 16 k) iv.2.1 := by
    rw [Hart.AccessOk, hplatform]
    exact hok
  rw [← haddr] at hiv hok'
  obtain ⟨u', hu', hx, -⟩ := exec_load_ordinary16 hiv (.inl hok') (haddr ▸ ho.part hplatform hk)
  cases hu.symm.trans hu'
  exact hx fun e => hrd (Fin.ext e)

/-- Settles O31: the store completes, each load gives the bytes it stored. -/
theorem mixedWidthBytes : Obligations.MixedWidthBytes := by
  constructor
  · intro s t u v rd rs1 rd2 rs2 imm12 k addr hm hok ho hvalid hvalid2 ht hrd hk
    obtain ⟨t', ht', hst⟩ := exec_store_ordinary32 (sw_mem_stores32 rd rs1 imm12) hm (.inl hok) ho
    cases ht.symm.trans ht'
    obtain ⟨⟨hbytes, -⟩, -⟩ := id hst
    obtain ⟨aligned, -⟩ := id hok
    refine ⟨fun hrs hu => ?_, fun hrs hv => ?_⟩
    · have hx : u.rvl32.x rd2 = BitVec.ofNat 32 (t.rvl32.byteAt (addr + BitVec.ofNat 32 k) 0).toNat :=
        exec_load_of_stored32 hst ho (by simpa using hk) hrs (lbu_mem_loads32 _ _ _ _) ⟨Nat.mod_one _, hvalid k hk⟩ hrd hu
      rw [hx, Hart.byteAt_add, Nat.add_zero, hbytes k hk, toNat_extractByte]
    · have half : (addr + 2#32).toNat % 2 = 0 := by rw [BitVec.toNat_add, BitVec.toNat_ofNat]; omega
      have hx : v.rvl32.x rd2 = BitVec.ofNat 32
          (t.rvl32.byteAt (addr + BitVec.ofNat 32 2) 1 ++ t.rvl32.byteAt (addr + BitVec.ofNat 32 2) 0).toNat :=
        exec_load_of_stored32 hst ho (by simp) hrs (lhu_mem_loads32 _ _ _ _) ⟨half, hvalid2⟩ hrd hv
      have hupper : 256 * ((s.rvl32.x rd).toNat / 256 ^ 3 % 256) + (s.rvl32.x rd).toNat / 256 ^ 2 % 256 =
          (s.rvl32.x rd).toNat / 65536 := by omega
      rw [hx, Hart.byteAt_add, Hart.byteAt_add, hbytes (2 + 1) (by simp), hbytes (2 + 0) (by simp), toNat_append_byte,
        toNat_extractByte, toNat_extractByte, hupper]
  · intro s t u rd rs1 rd2 rs2 imm4 k addr hm hok ho hvalid ht hrd hk hrs hu
    obtain ⟨t', ht', hst⟩ := exec_store_ordinary16 (sw_mem_stores16 rd rs1 imm4) hm (.inl hok) ho
    cases ht.symm.trans ht'
    obtain ⟨⟨hbytes, -⟩, -⟩ := id hst
    have hx : u.v16.x rd2 = BitVec.ofInt 16 (t.v16.byteAt (addr + BitVec.ofNat 16 k) 0).toInt :=
      exec_load_of_stored16 hst ho (by simpa using hk) hrs (lb_mem_loads16 _ _ _ _) ⟨Nat.mod_one _, hvalid k hk⟩ hrd hu
    rw [hx, Hart.byteAt_add, Nat.add_zero, hbytes k hk]

/-! ### A fetch after a store -/

/-- A hart after `bs` were stored at `addr` and noted as `io`, about to fetch at `p`. -/
def Hart.afterStore (h : Hart n) (addr : BitVec n) (bs : List Byte) (io : List IoEvent) (p : BitVec n) : Hart n :=
  Hart.jump { h.writeBytes addr bs with io := io } p

/-- A completed store and a jump to `p` lead there. -/
theorem Hart.storeFrom_jump {h : Hart n} {v addr : BitVec n} {width : Nat}
    (hf : (h.storeFrom v addr width).fault = none) (p : BitVec n) : ∃ io,
      (h.storeFrom v addr width).jump p = h.afterStore addr (valueBytes v width) io p := by
  obtain ⟨io, e⟩ := Hart.storeFrom_of_no_fault hf
  exact ⟨io, by rw [e]; rfl⟩

theorem Hart.afterStore_platform (h : Hart n) (addr : BitVec n) (bs : List Byte) (io : List IoEvent) (p : BitVec n) :
    (h.afterStore addr bs io p).platform = h.platform := by
  obtain ⟨-, -, -, e, -, -⟩ := Hart.writeBytes_frame bs h addr
  exact e

/-- Under `SMC_POLICY = refuse` a fetch that shares a byte with the store is refused (20_memory.md R62). -/
theorem Hart.checkFetch_afterStore_refuse (h : Hart n) (addr : BitVec n) (bs : List Byte) (io : List IoEvent)
    (p : BitVec n) (hp : p.toNat % ilen n = 0) (hv : h.platform.valid .fetch p.toNat (ilen n) = true)
    (hs : h.platform.smc = .refuse) (hshare : ∃ a, touched addr bs.length a ∧ touched p (ilen n) a) :
    (h.afterStore addr bs io p).checkFetch = some (.fetchAfterStore p.toNat) := by
  obtain ⟨a, hstore, hfetch⟩ := hshare
  have hplatform := h.afterStore_platform addr bs io p
  exact Hart.checkFetch_stored _ hp (hplatform ▸ hv) (hplatform ▸ hs)
    ⟨a, (Hart.writeBytes_stored_refuse a bs h addr hs).2 (.inl hstore), hfetch⟩

/-- Under `SMC_POLICY = coherent` it is not. -/
theorem Hart.checkFetch_afterStore_coherent (h : Hart n) (addr : BitVec n) (bs : List Byte) (io : List IoEvent)
    (p : BitVec n) (hp : p.toNat % ilen n = 0) (hv : h.platform.valid .fetch p.toNat (ilen n) = true)
    (hs : h.platform.smc = .coherent) : (h.afterStore addr bs io p).checkFetch = none := by
  have hplatform := h.afterStore_platform addr bs io p
  exact Hart.checkFetch_coherent _ hp (hplatform ▸ hv) (hplatform ▸ hs)

/-- `w` has, as the word at `p`, the bytes of `v` where a store of it at `addr` put them, and elsewhere those of memory
before (20_memory.md R52). -/
def Hart.WordAfterStore (h : Hart n) (v addr : BitVec n) (width : Nat) (p w : BitVec n) : Prop :=
  ∀ k, k < ilen n →
    (∀ j, j < width → p + BitVec.ofNat n k = addr + BitVec.ofNat n j →
      w.extractLsb' (8 * k) 8 = v.extractLsb' (8 * j) 8) ∧
    (¬ touched addr width (p + BitVec.ofNat n k).toNat → w.extractLsb' (8 * k) 8 = h.byteAt p k)

/-- Ordinary memory at `p` holds that word after the store. -/
theorem Hart.WordAfterStore.byteAt {h : Hart n} {v addr p w : BitVec n} {width : Nat}
    (hword : h.WordAfterStore v addr width p w) (io : List IoEvent) (hm : Memory.wf n h.mem = true)
    (hw : width ≤ 2 ^ n) (ho : h.OrdinaryAt p (ilen n)) (k : Nat) (hk : k < ilen n) :
    (h.afterStore addr (valueBytes v width) io p).byteAt p k = w.extractLsb' (8 * k) 8 := by
  obtain ⟨hstored, hother⟩ := hword k hk
  by_cases ht : touched addr width (p + BitVec.ofNat n k).toNat
  · obtain ⟨j, hj, e⟩ := ht
    have hpk : p + BitVec.ofNat n k = addr + BitVec.ofNat n j := BitVec.eq_of_toNat_eq e
    have hmem : h.deviceAt addr j = false := by
      rw [Hart.deviceAt, ← hpk]
      exact ho k hk
    have hself := Hart.writeBytes_read_self (valueBytes v width) h addr j (by simpa using hj) hm (by simpa using hw)
    rw [hmem] at hself
    rw [hstored j hj hpk, Hart.byteAt, hpk]
    exact hself.trans (by simp [valueBytes])
  · rw [hother ht]
    exact Hart.writeBytes_read_other (valueBytes v width) h addr _ hm (by simpa using ht)

/-- Under `SMC_POLICY = coherent` a fetch of ordinary memory after the store gives that word (20_memory.md R62). -/
theorem Hart.WordAfterStore.fetch {h : Hart n} {v addr p w : BitVec n} {width : Nat}
    (hword : h.WordAfterStore v addr width p w) (io : List IoEvent) (hn : 256 ^ ilen n = 2 ^ n)
    (hm : Memory.wf n h.mem = true) (hw : width ≤ 2 ^ n) (ho : h.OrdinaryAt p (ilen n)) (hp : p.toNat % ilen n = 0)
    (hv : h.platform.valid .fetch p.toNat (ilen n) = true) (hs : h.platform.smc = .coherent) :
    (h.afterStore addr (valueBytes v width) io p).fetch =
      .ok (w, h.afterStore addr (valueBytes v width) io p) := by
  have ho' : (h.afterStore addr (valueBytes v width) io p).OrdinaryAt p (ilen n) := by
    rw [Hart.OrdinaryAt, Hart.afterStore_platform]
    exact ho
  exact Hart.fetch_of_byteAt hn (h.checkFetch_afterStore_coherent addr _ io p hp hv hs) ho'
    (hword.byteAt io hm hw ho)

/-- Settles O32: the store leaves the hart at `p` with its bytes in memory and, under refuse, in `stored`. -/
theorem fetchAfterStore : Obligations.FetchAfterStore := by
  constructor
  · intro s t rd rs1 imm12 addr hi _ hwait hm iw hiw ht hf p hp hv
    obtain ⟨hw, hexec⟩ := exec_stores32 hiw
    cases (hexec s).symm.trans ht
    obtain ⟨io, e⟩ := Hart.storeFrom_jump hf p
    refine ⟨fun hs hshare => step_fetch_fault32 hi hf hwait ?_, fun i w hs ho hword _ hd =>
      step_of_fetch32 (w := w) hi hf hwait ?_ hd⟩
    · exact (congrArg Hart.checkFetch e).trans
        (Hart.checkFetch_afterStore_refuse _ _ _ io p hp hv hs (by simpa using hshare))
    · have hafter : s.rvl32.WordAfterStore (s.rvl32.x rd) addr iw.2 p w := hword
      have hfetch := hafter.fetch io rfl hm (by omega) ho hp hv hs
      rwa [← e] at hfetch
  · intro s t rd rs1 imm4 addr hi _ hm iw hiw ht hf p hp hv
    obtain ⟨hw, hexec⟩ := exec_stores16 hiw
    cases (hexec s).symm.trans ht
    obtain ⟨io, e⟩ := Hart.storeFrom_jump hf p
    refine ⟨fun hs hshare => step_fetch_fault16 hi hf ?_, fun i w hs ho hword _ hd =>
      step_of_fetch16 (w := w) hi hf ?_ hd⟩
    · exact (congrArg Hart.checkFetch e).trans
        (Hart.checkFetch_afterStore_refuse _ _ _ io p hp hv hs (by simpa using hshare))
    · have hafter : s.v16.WordAfterStore (s.v16.x rd) addr iw.2 p w := hword
      have hfetch := hafter.fetch io rfl hm (by omega) ho hp hv hs
      rwa [← e] at hfetch

end Sys2Proof.Machine

/-! The fields of an instruction word: a field split in two, and what a field of three bits can hold. -/

namespace Sys2Proof.Machine

/-- A field of `m + k` bits is a field of `m` bits above one of `k` bits. -/
theorem exists_eq_append {m k : Nat} (x : BitVec (m + k)) : ∃ (hi : BitVec m) (lo : BitVec k), x = hi ++ lo :=
  ⟨_, _, BitVec.extractLsb'_append_extractLsb'.symm⟩

/-- A field above another, as a number. -/
theorem toNat_append_field {m k : Nat} (hi : BitVec m) (lo : BitVec k) :
    (hi ++ lo).toNat = 2 ^ k * hi.toNat + lo.toNat := by
  rw [BitVec.toNat_append, ← Nat.shiftLeft_add_eq_or_of_lt lo.isLt, Nat.shiftLeft_eq, Nat.mul_comm]

/-- The eight values of func3 of RVL32 and of `#fun3` of V16. -/
theorem func3_cases :
    ∀ f : BitVec 3, f = 0#3 ∨ f = 1#3 ∨ f = 2#3 ∨ f = 3#3 ∨ f = 4#3 ∨ f = 5#3 ∨ f = 6#3 ∨ f = 7#3 := by
  decide

end Sys2Proof.Machine

/-! The instruction words of RVL32 (30_encoding.md R81 to R90, R95): the fields of each format, what the decoder does with a
word of each major opcode, and, from these, that the decoder is the encoder's inverse and rejects the reserved words
alone. -/

namespace Sys2Proof.Machine

/-! ### Register fields -/

/-- The register that five bits name. -/
def regOf32 (b : BitVec 5) : Reg32 := ⟨b.toNat, b.isLt⟩

theorem regField32_eq_regOf32 (w : Word32) (lo : Nat) : regField32 w lo = regOf32 (w.extractLsb' lo 5) := rfl

@[simp] theorem regOf32_regBits32 (r : Reg32) : regOf32 (regBits32 r) = r :=
  Fin.ext (Nat.mod_eq_of_lt r.isLt)

@[simp] theorem regBits32_regOf32 (b : BitVec 5) : regBits32 (regOf32 b) = b :=
  BitVec.eq_of_toNat_eq (Nat.mod_eq_of_lt b.isLt)

/-! ### The fields of a word in each format -/

section Fields

variable (imm12 : BitVec 12) (rs1 : BitVec 5) (func3 : BitVec 3) (rd : BitVec 5) (opcode : BitVec 7)

@[simp] theorem formatI_imm12 : (formatI imm12 rs1 func3 rd opcode).extractLsb' 20 12 = imm12 := by
  ext; grind [formatI]

@[simp] theorem formatI_rs1 : (formatI imm12 rs1 func3 rd opcode).extractLsb' 15 5 = rs1 := by
  ext; grind [formatI]

@[simp] theorem formatI_func3 : (formatI imm12 rs1 func3 rd opcode).extractLsb' 12 3 = func3 := by
  ext; grind [formatI]

@[simp] theorem formatI_rd : (formatI imm12 rs1 func3 rd opcode).extractLsb' 7 5 = rd := by
  ext; grind [formatI]

@[simp] theorem formatI_opcode : (formatI imm12 rs1 func3 rd opcode).extractLsb' 0 7 = opcode := by
  ext; grind [formatI]

@[simp] theorem formatI_func7 : (formatI imm12 rs1 func3 rd opcode).extractLsb' 25 7 = imm12.extractLsb' 5 7 := by
  ext; grind [formatI]

@[simp] theorem formatI_rs2 : (formatI imm12 rs1 func3 rd opcode).extractLsb' 20 5 = imm12.extractLsb' 0 5 := by
  ext; grind [formatI]

@[simp] theorem formatI_csrUpper :
    (formatI imm12 rs1 func3 rd opcode).extractLsb' 26 6 = imm12.extractLsb' 6 6 := by
  ext; grind [formatI]

@[simp] theorem formatI_csr : (formatI imm12 rs1 func3 rd opcode).extractLsb' 20 6 = imm12.extractLsb' 0 6 := by
  ext; grind [formatI]

variable (func7 : BitVec 7) (rs2 : BitVec 5)

/-- An R-format word is an I-format word whose immediate is func7 and `rs2`. -/
theorem formatR_eq_formatI :
    formatR func7 rs2 rs1 func3 rd opcode = formatI (func7 ++ rs2) rs1 func3 rd opcode := rfl

@[simp] theorem formatR_func7 : (formatR func7 rs2 rs1 func3 rd opcode).extractLsb' 25 7 = func7 :=
  (formatI_func7 ..).trans BitVec.extractLsb'_append_eq_left

@[simp] theorem formatR_rs2 : (formatR func7 rs2 rs1 func3 rd opcode).extractLsb' 20 5 = rs2 :=
  (formatI_rs2 ..).trans BitVec.extractLsb'_append_eq_right

@[simp] theorem formatR_imm12 : (formatR func7 rs2 rs1 func3 rd opcode).extractLsb' 20 12 = func7 ++ rs2 :=
  formatI_imm12 ..

@[simp] theorem formatR_rs1 : (formatR func7 rs2 rs1 func3 rd opcode).extractLsb' 15 5 = rs1 :=
  formatI_rs1 ..

@[simp] theorem formatR_func3 : (formatR func7 rs2 rs1 func3 rd opcode).extractLsb' 12 3 = func3 :=
  formatI_func3 ..

@[simp] theorem formatR_rd : (formatR func7 rs2 rs1 func3 rd opcode).extractLsb' 7 5 = rd :=
  formatI_rd ..

@[simp] theorem formatR_opcode : (formatR func7 rs2 rs1 func3 rd opcode).extractLsb' 0 7 = opcode :=
  formatI_opcode ..

variable (imm20 : BitVec 20)

@[simp] theorem formatUJ_imm20 : (formatUJ imm20 rd opcode).extractLsb' 12 20 = imm20 := by
  ext; grind [formatUJ]

@[simp] theorem formatUJ_rd : (formatUJ imm20 rd opcode).extractLsb' 7 5 = rd := by
  ext; grind [formatUJ]

@[simp] theorem formatUJ_opcode : (formatUJ imm20 rd opcode).extractLsb' 0 7 = opcode := by
  ext; grind [formatUJ]

variable (hi : BitVec 17) (mid : BitVec 5)

@[simp] theorem formatMisc_hi : (formatMisc hi func3 mid).extractLsb' 15 17 = hi := by
  ext; grind [formatMisc]

@[simp] theorem formatMisc_func3 : (formatMisc hi func3 mid).extractLsb' 12 3 = func3 := by
  ext; grind [formatMisc]

@[simp] theorem formatMisc_mid : (formatMisc hi func3 mid).extractLsb' 7 5 = mid := by
  ext; grind [formatMisc]

@[simp] theorem formatMisc_opcode : (formatMisc hi func3 mid).extractLsb' 0 7 = 0b0001111#7 := by
  ext; grind [formatMisc]

end Fields

/-- The two bits that every RVL32 word has set are the low ones of the opcode (30_encoding.md R80). -/
theorem lowBits_eq_opcode (w : Word32) : w.extractLsb' 0 2 = (w.extractLsb' 0 7).extractLsb' 0 2 := by
  ext; grind

/-- The major opcode is the rest of the opcode (30_encoding.md R86). -/
theorem major_eq_opcode (w : Word32) : w.extractLsb' 2 5 = (w.extractLsb' 0 7).extractLsb' 2 5 := by
  ext; grind

/-! ### Every word in the format of its opcode -/

section Words

variable {w : Word32} {opcode : BitVec 7}

theorem exists_formatI (h : w.extractLsb' 0 7 = opcode) :
    ∃ imm12 rs1 func3 rd, w = formatI imm12 rs1 func3 rd opcode := by
  refine ⟨w.extractLsb' 20 12, w.extractLsb' 15 5, w.extractLsb' 12 3, w.extractLsb' 7 5, ?_⟩
  ext; grind [formatI]

theorem exists_formatR (h : w.extractLsb' 0 7 = opcode) :
    ∃ func7 rs2 rs1 func3 rd, w = formatR func7 rs2 rs1 func3 rd opcode := by
  obtain ⟨imm12, rs1, func3, rd, rfl⟩ := exists_formatI h
  obtain ⟨func7, rs2, rfl⟩ := exists_eq_append (m := 7) (k := 5) imm12
  exact ⟨func7, rs2, rs1, func3, rd, rfl⟩

theorem exists_formatUJ (h : w.extractLsb' 0 7 = opcode) : ∃ imm20 rd, w = formatUJ imm20 rd opcode := by
  refine ⟨w.extractLsb' 12 20, w.extractLsb' 7 5, ?_⟩
  ext; grind [formatUJ]

theorem exists_formatMisc (h : w.extractLsb' 0 7 = 0b0001111#7) :
    ∃ hi func3 mid, w = formatMisc hi func3 mid := by
  refine ⟨w.extractLsb' 15 17, w.extractLsb' 12 3, w.extractLsb' 7 5, ?_⟩
  rw [formatMisc, ← h]
  ext; grind

end Words

/-! ### The decoder by major opcode -/

section Majors

variable (imm12 : BitVec 12) (rs1 : BitVec 5) (func3 : BitVec 3) (rd : BitVec 5) (imm20 : BitVec 20)
variable (func7 : BitVec 7) (rs2 : BitVec 5)

@[simp] theorem decode32_lui : decode32 (formatUJ imm20 rd 0b0110111#7) = .ok (.lui (regOf32 rd) imm20) := by
  simp [decode32, lowBits_eq_opcode, major_eq_opcode, majorOf, regField32_eq_regOf32]

@[simp] theorem decode32_auipc : decode32 (formatUJ imm20 rd 0b0010111#7) = .ok (.auipc (regOf32 rd) imm20) := by
  simp [decode32, lowBits_eq_opcode, major_eq_opcode, majorOf, regField32_eq_regOf32]

@[simp] theorem decode32_jal : decode32 (formatUJ imm20 rd 0b1101111#7) = .ok (.jal (regOf32 rd) imm20) := by
  simp [decode32, lowBits_eq_opcode, major_eq_opcode, majorOf, regField32_eq_regOf32]

@[simp] theorem decode32_jalr : decode32 (formatI imm12 rs1 func3 rd 0b1100111#7) =
    if func3 = 0b000#3 then .ok (.jalr (regOf32 rd) (regOf32 rs1) imm12) else .error .jalrFunc3 := by
  simp [decode32, lowBits_eq_opcode, major_eq_opcode, majorOf, regField32_eq_regOf32]

@[simp] theorem decode32_branch : decode32 (formatI imm12 rs1 func3 rd 0b1100011#7) =
    decodeBranch func3 (regOf32 rd) (regOf32 rs1) imm12 := by
  simp [decode32, lowBits_eq_opcode, major_eq_opcode, majorOf, regField32_eq_regOf32]

@[simp] theorem decode32_load : decode32 (formatI imm12 rs1 func3 rd 0b0000011#7) =
    decodeLoad func3 (regOf32 rd) (regOf32 rs1) imm12 := by
  simp [decode32, lowBits_eq_opcode, major_eq_opcode, majorOf, regField32_eq_regOf32]

@[simp] theorem decode32_store : decode32 (formatI imm12 rs1 func3 rd 0b0100011#7) =
    decodeStore func3 (regOf32 rd) (regOf32 rs1) imm12 := by
  simp [decode32, lowBits_eq_opcode, major_eq_opcode, majorOf, regField32_eq_regOf32]

/-- OP-IMM with an immediate of twelve bits, of which func7 is a part. -/
@[simp] theorem decode32_opImm : decode32 (formatI imm12 rs1 func3 rd 0b0010011#7) =
    decodeOpImm func3 (imm12.extractLsb' 5 7) (regOf32 rd) (regOf32 rs1) imm12 (imm12.extractLsb' 0 5) := by
  simp [decode32, lowBits_eq_opcode, major_eq_opcode, majorOf, regField32_eq_regOf32]

/-- OP-IMM with func7 and five bits of an immediate. -/
@[simp] theorem decode32_shift : decode32 (formatR func7 rs2 rs1 func3 rd 0b0010011#7) =
    decodeOpImm func3 func7 (regOf32 rd) (regOf32 rs1) (func7 ++ rs2) rs2 := by
  simp [decode32, lowBits_eq_opcode, major_eq_opcode, majorOf, regField32_eq_regOf32]

@[simp] theorem decode32_op : decode32 (formatR func7 rs2 rs1 func3 rd 0b0110011#7) =
    decodeOp func7 func3 (regOf32 rd) (regOf32 rs1) (regOf32 rs2) := by
  simp [decode32, lowBits_eq_opcode, major_eq_opcode, majorOf, regField32_eq_regOf32]

@[simp] theorem decode32_misc (hi : BitVec 17) (mid : BitVec 5) :
    decode32 (formatMisc hi func3 mid) = decodeMiscMem func3 hi mid := by
  simp [decode32, lowBits_eq_opcode, major_eq_opcode, majorOf]

@[simp] theorem decode32_system : decode32 (formatI imm12 rs1 func3 rd 0b1110011#7) =
    if func3 = 0b000#3 then decodeSystemWord (formatI imm12 rs1 func3 rd 0b1110011#7)
    else if func3 = 0b100#3 then .error .systemFunc3
    else decodeCsr func3 (imm12.extractLsb' 6 6) (imm12.extractLsb' 0 6) (regOf32 rd) (regOf32 rs1) rs1 := by
  simp [decode32, decodeSystem, lowBits_eq_opcode, major_eq_opcode, majorOf, regField32_eq_regOf32]

end Majors

/-! ### Decoding what was encoded -/

/-- The upper six bits and the index of a CSR field (30_encoding.md R88). -/
theorem extract_csrUpper (upper csr : BitVec 6) : BitVec.extractLsb' 6 6 (upper ++ csr : BitVec 12) = upper :=
  BitVec.extractLsb'_append_eq_left

theorem extract_csr (upper csr : BitVec 6) : BitVec.extractLsb' 0 6 (upper ++ csr : BitVec 12) = csr :=
  BitVec.extractLsb'_append_eq_right

/-- RVL32's half of O1, by format and by the function that decodes each table of 30_encoding.md R87. -/
theorem decode_encode_of_rvl32 {i : Instr} (hi : i.isa = .rvl32) : decode (encode i) = .ok i := by
  cases i with
  | lui | auipc | jal => simp [decode, encode]
  | jalr => simp [decode, encode, wordI]
  | beq | bne | blt | bge | bltu | bgeu => simp [decode, encode, wordI, decodeBranch]
  | lb | lh | lw | lbu | lhu => simp [decode, encode, wordI, decodeLoad]
  | sb | sh | sw => simp [decode, encode, wordI, decodeStore]
  | addi | slti | sltiu | xori | ori | andi => simp [decode, encode, wordI, decodeOpImm]
  | slli | srli | srai => simp [decode, encode, wordShift, decodeOpImm]
  | add | sll | slt | sltu | xor | srl | or | and => simp [decode, encode, wordOp, decodeOp, decodeOpBase]
  | mul | mulh | mulhsu | mulhu | div | divu | rem | remu => simp [decode, encode, wordOp, decodeOp, decodeMulDiv]
  | sub | sra => simp [decode, encode, wordOp, decodeOp]
  | fence | fenceI => simp [decode, encode, decodeMiscMem]
  | ecall | ebreak | wfi => rfl
  | csrrw | csrrs | csrrc | csrrwi | csrrsi | csrrci =>
    simp [decode, encode, wordCsr, decodeCsr, extract_csrUpper, extract_csr]
  | _ => cases hi

/-! ### The decoder against the tables -/

/-- The decoder does with a word what the tables say of it: it gives the instruction whose word it is, or it rejects
it as one of the reserved words of 30_encoding.md R95. -/
def DecodesByTable (w : Word32) : Prop :=
  match decode32 w with
  | .ok i => encode i = .rvl32 w ∧ reservedWord w = false
  | .error _ => reservedWord w = true

section Tables

variable {w : Word32}

theorem decodesByTable_lui (h : w.extractLsb' 0 7 = 0b0110111#7) : DecodesByTable w := by
  obtain ⟨imm20, rd, rfl⟩ := exists_formatUJ h
  simp [DecodesByTable, encode, reservedWord, lowBits_eq_opcode, major_eq_opcode, reservedMajors]

theorem decodesByTable_auipc (h : w.extractLsb' 0 7 = 0b0010111#7) : DecodesByTable w := by
  obtain ⟨imm20, rd, rfl⟩ := exists_formatUJ h
  simp [DecodesByTable, encode, reservedWord, lowBits_eq_opcode, major_eq_opcode, reservedMajors]

theorem decodesByTable_jal (h : w.extractLsb' 0 7 = 0b1101111#7) : DecodesByTable w := by
  obtain ⟨imm20, rd, rfl⟩ := exists_formatUJ h
  simp [DecodesByTable, encode, reservedWord, lowBits_eq_opcode, major_eq_opcode, reservedMajors]

theorem decodesByTable_jalr (h : w.extractLsb' 0 7 = 0b1100111#7) : DecodesByTable w := by
  obtain ⟨imm12, rs1, func3, rd, rfl⟩ := exists_formatI h
  have hr : reservedWord (formatI imm12 rs1 func3 rd 0b1100111#7) = (func3 != 0b000#3) := by
    simp [reservedWord, lowBits_eq_opcode, major_eq_opcode, reservedMajors]
  rw [DecodesByTable, hr, decode32_jalr]
  by_cases hfunc3 : func3 = 0b000#3
  · simp [hfunc3, encode, wordI]
  · simp [hfunc3]

theorem decodesByTable_branch (h : w.extractLsb' 0 7 = 0b1100011#7) : DecodesByTable w := by
  obtain ⟨imm12, rs1, func3, rd, rfl⟩ := exists_formatI h
  have hr : reservedWord (formatI imm12 rs1 func3 rd 0b1100011#7) = (func3 == 0b010#3 || func3 == 0b011#3) := by
    simp [reservedWord, lowBits_eq_opcode, major_eq_opcode, reservedMajors]
  rw [DecodesByTable, hr, decode32_branch]
  rcases func3_cases func3 with rfl | rfl | rfl | rfl | rfl | rfl | rfl | rfl <;> simp [decodeBranch, encode, wordI]

theorem decodesByTable_load (h : w.extractLsb' 0 7 = 0b0000011#7) : DecodesByTable w := by
  obtain ⟨imm12, rs1, func3, rd, rfl⟩ := exists_formatI h
  have hr : reservedWord (formatI imm12 rs1 func3 rd 0b0000011#7) =
      (func3 == 0b011#3 || func3 == 0b110#3 || func3 == 0b111#3) := by
    simp [reservedWord, lowBits_eq_opcode, major_eq_opcode, reservedMajors]
  rw [DecodesByTable, hr, decode32_load]
  rcases func3_cases func3 with rfl | rfl | rfl | rfl | rfl | rfl | rfl | rfl <;> simp [decodeLoad, encode, wordI]

theorem decodesByTable_store (h : w.extractLsb' 0 7 = 0b0100011#7) : DecodesByTable w := by
  obtain ⟨imm12, rs1, func3, rd, rfl⟩ := exists_formatI h
  have hr : reservedWord (formatI imm12 rs1 func3 rd 0b0100011#7) = decide (3 ≤ func3.toNat) := by
    simp [reservedWord, lowBits_eq_opcode, major_eq_opcode, reservedMajors]
  rw [DecodesByTable, hr, decode32_store]
  rcases func3_cases func3 with rfl | rfl | rfl | rfl | rfl | rfl | rfl | rfl <;> simp [decodeStore, encode, wordI]

/-- OP-IMM: func7 selects between the shifts alone. -/
theorem decodesByTable_opImm (h : w.extractLsb' 0 7 = 0b0010011#7) : DecodesByTable w := by
  obtain ⟨func7, rs2, rs1, func3, rd, rfl⟩ := exists_formatR h
  have hr : reservedWord (formatR func7 rs2 rs1 func3 rd 0b0010011#7) =
      (func3 == 0b001#3 && func7 != 0b0000000#7 ||
        func3 == 0b101#3 && func7 != 0b0000000#7 && func7 != 0b0100000#7) := by
    simp [reservedWord, lowBits_eq_opcode, major_eq_opcode, reservedMajors]
  rw [DecodesByTable, hr, decode32_shift]
  by_cases hlogical : func7 = 0b0000000#7
  · subst hlogical
    rcases func3_cases func3 with rfl | rfl | rfl | rfl | rfl | rfl | rfl | rfl <;>
      simp [decodeOpImm, encode, wordI, wordShift, formatR_eq_formatI]
  by_cases harith : func7 = 0b0100000#7
  · subst harith
    rcases func3_cases func3 with rfl | rfl | rfl | rfl | rfl | rfl | rfl | rfl <;>
      simp [decodeOpImm, encode, wordI, wordShift, formatR_eq_formatI]
  · rcases func3_cases func3 with rfl | rfl | rfl | rfl | rfl | rfl | rfl | rfl <;>
      simp [decodeOpImm, hlogical, harith, encode, wordI, formatR_eq_formatI]

/-- OP: the pair func7, func3 selects. -/
theorem decodesByTable_op (h : w.extractLsb' 0 7 = 0b0110011#7) : DecodesByTable w := by
  obtain ⟨func7, rs2, rs1, func3, rd, rfl⟩ := exists_formatR h
  have hr : reservedWord (formatR func7 rs2 rs1 func3 rd 0b0110011#7) =
      (func7 != 0b0000000#7 && func7 != 0b0100000#7 && func7 != 0b0000001#7 ||
        func7 == 0b0100000#7 && func3 != 0b000#3 && func3 != 0b101#3) := by
    simp [reservedWord, lowBits_eq_opcode, major_eq_opcode, reservedMajors]
  rw [DecodesByTable, hr, decode32_op, decodeOp]
  split_ifs with hbase hmulDiv hsub
  · subst hbase
    rcases func3_cases func3 with rfl | rfl | rfl | rfl | rfl | rfl | rfl | rfl <;>
      simp [decodeOpBase, encode, wordOp]
  · subst hmulDiv
    rcases func3_cases func3 with rfl | rfl | rfl | rfl | rfl | rfl | rfl | rfl <;>
      simp [decodeMulDiv, encode, wordOp]
  · subst hsub
    rcases func3_cases func3 with rfl | rfl | rfl | rfl | rfl | rfl | rfl | rfl <;> simp [encode, wordOp]
  · simp [hbase, hmulDiv, hsub]

theorem decodesByTable_misc (h : w.extractLsb' 0 7 = 0b0001111#7) : DecodesByTable w := by
  obtain ⟨hi, func3, mid, rfl⟩ := exists_formatMisc h
  have hr : reservedWord (formatMisc hi func3 mid) = decide (2 ≤ func3.toNat) := by
    simp [reservedWord, lowBits_eq_opcode, major_eq_opcode, reservedMajors]
  rw [DecodesByTable, hr, decode32_misc]
  rcases func3_cases func3 with rfl | rfl | rfl | rfl | rfl | rfl | rfl | rfl <;> simp [decodeMiscMem, encode]

/-- SYSTEM with func3 000: three words. -/
theorem decodesByTable_systemWord (h : w.extractLsb' 0 7 = 0b1110011#7) (h0 : w.extractLsb' 12 3 = 0b000#3) :
    DecodesByTable w := by
  have hr : reservedWord w = (w != 0x10500073#32 && w != 0x00000073#32 && w != 0x00100073#32) := by
    simp [reservedWord, lowBits_eq_opcode, major_eq_opcode, reservedMajors, h, h0]
  have hd : decode32 w = decodeSystemWord w := by
    obtain ⟨imm12, rs1, func3, rd, rfl⟩ := exists_formatI h
    rw [decode32_system, if_pos (by simpa using h0)]
  rw [DecodesByTable, hr, hd, decodeSystemWord]
  split_ifs with hwfi hecall hebreak
  · simp [hwfi, encode]
  · simp [hecall, encode]
  · simp [hebreak, encode]
  · simp [hwfi, hecall, hebreak]

/-- SYSTEM with another func3: the CSR instructions, which need the six bits above the index to be zero. -/
theorem decodesByTable_csr (h : w.extractLsb' 0 7 = 0b1110011#7) (h0 : w.extractLsb' 12 3 ≠ 0b000#3) :
    DecodesByTable w := by
  obtain ⟨imm12, src, func3, rd, rfl⟩ := exists_formatI h
  obtain ⟨upper, csr, rfl⟩ := exists_eq_append (m := 6) (k := 6) imm12
  rw [formatI_func3] at h0
  have hbeq : (func3 == 0b000#3) = false := beq_eq_false_iff_ne.2 h0
  have hr : reservedWord (formatI (upper ++ csr) src func3 rd 0b1110011#7) =
      (func3 == 0b100#3 || func3 != 0b100#3 && upper != 0b000000#6) := by
    simp [reservedWord, lowBits_eq_opcode, major_eq_opcode, reservedMajors, extract_csrUpper, bne, hbeq]
  rw [DecodesByTable, hr, decode32_system, if_neg h0, extract_csrUpper, extract_csr, decodeCsr]
  split_ifs with h4 hupper
  · simp [h4]
  · subst hupper
    rcases func3_cases func3 with rfl | rfl | rfl | rfl | rfl | rfl | rfl | rfl <;>
      simp [encode, wordCsr] at h0 h4 ⊢
  · simp [h4, hupper]

end Tables

/-! ### Every word -/

/-- The opcodes that are not reserved (30_encoding.md R86). -/
theorem opcode_cases (w : Word32) : w.extractLsb' 0 2 ≠ 0b11#2 ∨ w.extractLsb' 2 5 ∈ reservedMajors ∨
    w.extractLsb' 0 7 ∈ [0b0110111#7, 0b0010111#7, 0b1101111#7, 0b1100111#7, 0b1100011#7, 0b0000011#7, 0b0100011#7,
      0b0010011#7, 0b0110011#7, 0b0001111#7, 0b1110011#7] := by
  rw [lowBits_eq_opcode, major_eq_opcode]
  generalize w.extractLsb' 0 7 = opcode
  revert opcode
  decide

theorem decode32_lowBits {w : Word32} (hl : w.extractLsb' 0 2 ≠ 0b11#2) : decode32 w = .error .lowBits := by
  rw [decode32, if_neg hl]

/-- The reserved major opcodes of 30_encoding.md R86 are those the opcode map gives to no table. -/
theorem decode32_reservedMajor {w : Word32} (hm : w.extractLsb' 2 5 ∈ reservedMajors) :
    ∃ r, decode32 w = .error r := by
  simp only [decode32]
  split
  · revert hm
    generalize w.extractLsb' 2 5 = m
    revert m
    simp [reservedMajors, majorOf]
  · exact ⟨_, rfl⟩

/-- A rejected word that the tables say is reserved. -/
theorem decodesByTable_of_error {w : Word32} {r : Reserved} (hd : decode32 w = .error r)
    (hr : reservedWord w = true) : DecodesByTable w := by
  rw [DecodesByTable, hd]
  exact hr

/-- The decoder does with every word what the tables say of it, by its opcode. -/
theorem decodesByTable (w : Word32) : DecodesByTable w := by
  rcases opcode_cases w with hl | hm | ho
  · exact decodesByTable_of_error (decode32_lowBits hl) (by simp [reservedWord, hl])
  · obtain ⟨r, hd⟩ := decode32_reservedMajor hm
    exact decodesByTable_of_error hd (by simp [reservedWord, hm])
  simp only [List.mem_cons, List.not_mem_nil, or_false] at ho
  rcases ho with h | h | h | h | h | h | h | h | h | h | h
  · exact decodesByTable_lui h
  · exact decodesByTable_auipc h
  · exact decodesByTable_jal h
  · exact decodesByTable_jalr h
  · exact decodesByTable_branch h
  · exact decodesByTable_load h
  · exact decodesByTable_store h
  · exact decodesByTable_opImm h
  · exact decodesByTable_op h
  · exact decodesByTable_misc h
  · by_cases h0 : w.extractLsb' 12 3 = 0b000#3
    · exact decodesByTable_systemWord h h0
    · exact decodesByTable_csr h h0

/-! ### What the decoder answers -/

/-- No bit of an RVL32 word that decodes is lost (30_encoding.md R90). -/
theorem encode_of_decode32 {w : Word32} {i : Instr} (hd : decode (.rvl32 w) = .ok i) : encode i = .rvl32 w := by
  obtain ⟨hencode, -⟩ : encode i = .rvl32 w ∧ reservedWord w = false := by
    simpa [DecodesByTable, show decode32 w = .ok i from hd] using decodesByTable w
  exact hencode

/-- The words of 30_encoding.md R95 are those that the decoder rejects. -/
theorem reservedWord_iff (w : Word32) : reservedWord w = true ↔ ∃ r, decode (.rvl32 w) = .error r := by
  have h := decodesByTable w
  cases hd : decode32 w with
  | ok i =>
    obtain ⟨-, hr⟩ : encode i = .rvl32 w ∧ reservedWord w = false := by simpa [DecodesByTable, hd] using h
    simp [decode, hd, hr]
  | error r =>
    have hr : reservedWord w = true := by simpa [DecodesByTable, hd] using h
    simp [decode, hd, hr]

/-- Every RVL32 term is well-formed. -/
theorem wellFormed_of_rvl32 {i : Instr} (hi : i.isa = .rvl32) : i.WellFormed := by
  cases i with
  | v16And | v16Or | v16Xor | v16Srl | v16Sra | v16Li | v16Lui | v16Auipc => cases hi
  | _ => rfl

/-- A step of RVL32 that fetches a word which is no instruction. -/
theorem step_of_reserved {s : State} {w : Word32} {r : Reserved} (hi : s.isa = .rvl32) (hf : s.rvl32.fault = none)
    (hw : s.waiting = false) (hfetch : s.rvl32.fetch = .ok (w, s.rvl32)) (hd : decode (.rvl32 w) = .error r) :
    step s = .next { s with rvl32 := s.rvl32.raise (.illegalInstruction w.toNat) } := by
  simp only [step_eq_run32 hi hf hw, State.run32, hfetch, hd, State.next32_eq]

/-- Settles O3: the reserved words are those the decoder rejects, and a step that fetches one takes that branch. -/
theorem reservedWordsAreRejected : Obligations.ReservedWordsAreRejected := by
  refine ⟨reservedWord_iff, fun s w hi hf hw hr hfetch => ?_⟩
  obtain ⟨r, hd⟩ := (reservedWord_iff w).1 hr
  exact ⟨_, step_of_reserved hi hf hw hfetch hd, rfl⟩

end Sys2Proof.Machine

/-! The instruction words of V16 (30_encoding.md R100 to R111): the four fields of a word, the FREE words by their fields,
and, by Op, that the decoder is the encoder's inverse and gives a FREE row for the FREE words alone. -/

namespace Sys2Proof.Machine

/-! ### Register fields -/

/-- The register that four bits name. -/
def regOf16 (b : BitVec 4) : Reg16 := ⟨b.toNat, b.isLt⟩

theorem regField16_eq_regOf16 (w : Word16) (lo : Nat) : regField16 w lo = regOf16 (w.extractLsb' lo 4) := rfl

@[simp] theorem regOf16_regBits16 (r : Reg16) : regOf16 (regBits16 r) = r :=
  Fin.ext (Nat.mod_eq_of_lt r.isLt)

@[simp] theorem regBits16_regOf16 (b : BitVec 4) : regBits16 (regOf16 b) = b :=
  BitVec.eq_of_toNat_eq (Nat.mod_eq_of_lt b.isLt)

@[simp] theorem regOf16_eq_zero (b : BitVec 4) : regOf16 b = 0 ↔ b = 0#4 := by
  simp [regOf16, Fin.ext_iff, BitVec.toNat_eq]

@[simp] theorem regBits16_zero : regBits16 0 = 0#4 := rfl

/-! ### The four fields of a word -/

section Fields

variable (a b c op : BitVec 4)

@[simp] theorem formatQuad_rs1 : (formatQuad a b c op).extractLsb' 12 4 = a := by
  ext; grind [formatQuad]

@[simp] theorem formatQuad_rs2 : (formatQuad a b c op).extractLsb' 8 4 = b := by
  ext; grind [formatQuad]

@[simp] theorem formatQuad_rd : (formatQuad a b c op).extractLsb' 4 4 = c := by
  ext; grind [formatQuad]

@[simp] theorem formatQuad_op : (formatQuad a b c op).extractLsb' 0 4 = op := by
  ext; grind [formatQuad]

@[simp] theorem formatQuad_imm8 : (formatQuad a b c op).extractLsb' 8 8 = a ++ b := by
  ext; grind [formatQuad]

@[simp] theorem formatQuad_bit11 : (formatQuad a b c op).extractLsb' 11 1 = b.extractLsb' 3 1 := by
  ext; grind [formatQuad]

@[simp] theorem formatQuad_fun3 : (formatQuad a b c op).extractLsb' 8 3 = b.extractLsb' 0 3 := by
  ext; grind [formatQuad]

theorem exists_formatQuad (w : Word16) : ∃ a b c op, w = formatQuad a b c op := by
  refine ⟨w.extractLsb' 12 4, w.extractLsb' 8 4, w.extractLsb' 4 4, w.extractLsb' 0 4, ?_⟩
  ext; grind [formatQuad]

theorem formatQuad_inj {a' b' c' op' : BitVec 4} :
    formatQuad a b c op = formatQuad a' b' c' op' ↔ a = a' ∧ b = b' ∧ c = c' ∧ op = op' := by
  refine ⟨fun h => ?_, fun ⟨ha, hb, hc, ho⟩ => by rw [ha, hb, hc, ho]⟩
  have field {lo len} := congrArg (BitVec.extractLsb' lo len) h
  exact ⟨by simpa using @field 12 4, by simpa using @field 8 4, by simpa using @field 4 4, by simpa using @field 0 4⟩

theorem toNat_formatQuad :
    (formatQuad a b c op).toNat = 4096 * a.toNat + 256 * b.toNat + 16 * c.toNat + op.toNat := by
  simp only [formatQuad, toNat_append_field]
  omega

theorem formatQuad_and (a' b' c' op' : BitVec 4) :
    formatQuad a b c op &&& formatQuad a' b' c' op' = formatQuad (a &&& a') (b &&& b') (c &&& c') (op &&& op') := by
  ext; grind [formatQuad]

/-- A field under a mask of ones. -/
theorem field_and_ones (x : BitVec 4) : x &&& 0xF#4 = x := BitVec.and_allOnes

/-- The match and mask pairs of 30_encoding.md R110 by their fields. -/
theorem freePatterns_eq : freePatterns =
    [(formatQuad 0#4 0#4 0#4 0#4, formatQuad 0#4 0xF#4 0#4 0xF#4),
      (formatQuad 0#4 0#4 0#4 1#4, formatQuad 0#4 0xF#4 0#4 0xF#4),
      (formatQuad 0#4 0#4 0#4 3#4, formatQuad 0#4 0xF#4 0#4 0xF#4),
      (formatQuad 0#4 0#4 0#4 8#4, formatQuad 0#4 0#4 0xF#4 0xF#4),
      (formatQuad 0#4 0#4 0#4 9#4, formatQuad 0#4 0#4 0xF#4 0xF#4),
      (formatQuad 0#4 0#4 0#4 10#4, formatQuad 0#4 0#4 0xF#4 0xF#4),
      (formatQuad 0#4 7#4 0#4 15#4, formatQuad 0#4 0xF#4 0#4 0xF#4)] := rfl

/-- A word is FREE by its Op and its `rs2` field, its `rd` field, or its `#fun3` with bit 11 clear. -/
theorem freeWord_formatQuad : freeWord (formatQuad a b c op) =
    (b == 0#4 && (op == 0#4 || op == 1#4 || op == 3#4) || c == 0#4 && (op == 8#4 || op == 9#4 || op == 10#4) ||
      b == 7#4 && op == 15#4) := by
  rw [Bool.eq_iff_iff]
  simp only [freeWord, freePatterns_eq, formatQuad_and, field_and_ones, List.any_cons, List.any_nil, Bool.or_eq_true,
    Bool.and_eq_true, beq_iff_eq, formatQuad_inj, BitVec.and_zero, true_and]
  grind

end Fields

/-- Bit 11 and `#fun3` or `#imm3` of an Op 15 word (30_encoding.md R104). -/
theorem extract_bit11 (bit : BitVec 1) (fun3 : BitVec 3) : BitVec.extractLsb' 3 1 (bit ++ fun3 : BitVec 4) = bit :=
  BitVec.extractLsb'_append_eq_left

theorem extract_fun3 (bit : BitVec 1) (fun3 : BitVec 3) : BitVec.extractLsb' 0 3 (bit ++ fun3 : BitVec 4) = fun3 :=
  BitVec.extractLsb'_append_eq_right

/-- An I-format word by the two halves of its `#imm8`. -/
theorem wordImm8_append (op : BitVec 4) (rd : Reg16) (hi lo : BitVec 4) :
    wordImm8 op rd (hi ++ lo) = .v16 (formatQuad hi lo (regBits16 rd) op) := rfl

/-! ### Decoding what was encoded -/

/-- V16's half of O1, by format. -/
theorem decode_encode_of_v16 {i : Instr} (hi : i.isa = .v16) (hwf : i.WellFormed) : decode (encode i) = .ok i := by
  cases i with
  | v16And rd rs1 rs2 | v16Or rd rs1 rs2 | v16Xor rd rs1 rs2 | v16Srl rd rs1 rs2 | v16Sra rd rs1 rs2 =>
    have hrs2 : rs2 ≠ 0 := by simpa [Instr.WellFormed, Instr.wellFormed] using hwf
    simp [decode, encode, wordRR, decode16, regField16_eq_regOf16, hrs2]
  | v16Not | v16Swp | v16Add | v16Sub | v16Free0 | v16Free1 | v16Free3 =>
    simp [decode, encode, wordRR, decode16, regField16_eq_regOf16]
  | v16Li rd imm8 | v16Lui rd imm8 | v16Auipc rd imm8 =>
    have hrd : rd ≠ 0 := by simpa [Instr.WellFormed, Instr.wellFormed] using hwf
    obtain ⟨hi, lo, rfl⟩ := exists_eq_append (m := 4) (k := 4) imm8
    simp [decode, encode, wordImm8_append, decode16, regField16_eq_regOf16, hrd]
  | v16Jal _ imm8 | v16Free8 imm8 | v16Free9 imm8 | v16Free10 imm8 =>
    obtain ⟨hi, lo, rfl⟩ := exists_eq_append (m := 4) (k := 4) imm8
    simp [decode, encode, wordImm8_append, decode16, regField16_eq_regOf16]
  | v16Lw | v16Sw | v16Lb | v16Sb => simp [decode, encode, wordRI, decode16, regField16_eq_regOf16]
  | v16Jalr | v16IfEq | v16IfNe | v16IfLt | v16IfGe | v16IfLtu | v16IfGeu | v16Free15 =>
    simp [decode, encode, wordFun3, decode16, decodeFun3, regField16_eq_regOf16]
  | v16Addi => simp [decode, encode, wordImm3, decode16, regField16_eq_regOf16, extract_bit11, extract_fun3]
  | _ => cases hi

/-! ### The decoder against the tables -/

/-- The decoder does with a V16 word what the tables say of it: it gives the well-formed instruction whose word it is, one of
the FREE rows exactly for the FREE words of 30_encoding.md R110. -/
def DecodesByTable16 (w : Word16) : Prop :=
  encode (decode16 w) = .v16 w ∧ (decode16 w).WellFormed ∧ isFree (decode16 w) = freeWord w

/-- The rows that the `rs2` field selects between (30_encoding.md R103). -/
theorem decodesByTable16_rs2 (a b c op : BitVec 4) (ho : op ∈ [0#4, 1#4, 2#4, 3#4, 4#4]) :
    DecodesByTable16 (formatQuad a b c op) := by
  simp only [List.mem_cons, List.not_mem_nil, or_false] at ho
  rw [DecodesByTable16, freeWord_formatQuad]
  by_cases hb : b = 0#4
  · rcases ho with rfl | rfl | rfl | rfl | rfl <;>
      simp [decode16, regField16_eq_regOf16, hb, encode, wordRR, Instr.WellFormed, Instr.wellFormed, isFree]
  · rcases ho with rfl | rfl | rfl | rfl | rfl <;>
      simp [decode16, regField16_eq_regOf16, hb, encode, wordRR, Instr.WellFormed, Instr.wellFormed, isFree]

/-- The rows that the `rd` field selects between. -/
theorem decodesByTable16_rd (a b c op : BitVec 4) (ho : op ∈ [8#4, 9#4, 10#4]) :
    DecodesByTable16 (formatQuad a b c op) := by
  simp only [List.mem_cons, List.not_mem_nil, or_false] at ho
  rw [DecodesByTable16, freeWord_formatQuad]
  by_cases hc : c = 0#4
  · rcases ho with rfl | rfl | rfl <;>
      simp [decode16, regField16_eq_regOf16, hc, encode, wordImm8_append, Instr.WellFormed, Instr.wellFormed, isFree]
  · rcases ho with rfl | rfl | rfl <;>
      simp [decode16, regField16_eq_regOf16, hc, encode, wordImm8_append, Instr.WellFormed, Instr.wellFormed, isFree]

/-- The rows that Op alone selects. -/
theorem decodesByTable16_plain (a b c op : BitVec 4) (ho : op ∈ [5#4, 6#4, 7#4, 11#4, 12#4, 13#4, 14#4]) :
    DecodesByTable16 (formatQuad a b c op) := by
  simp only [List.mem_cons, List.not_mem_nil, or_false] at ho
  rw [DecodesByTable16, freeWord_formatQuad]
  rcases ho with rfl | rfl | rfl | rfl | rfl | rfl | rfl <;>
    simp [decode16, regField16_eq_regOf16, encode, wordRR, wordRI, wordImm8_append, Instr.WellFormed, Instr.wellFormed,
      isFree]

/-- Op 15 with bit 11 set: every `#imm3` is ADDI's. -/
theorem decodesByTable16_addi (a c : BitVec 4) (imm3 : BitVec 3) :
    DecodesByTable16 (formatQuad a (1#1 ++ imm3) c 15#4) := by
  have hfree : (1#1 ++ imm3 : BitVec 4) ≠ 7#4 := by revert imm3; decide
  rw [DecodesByTable16, freeWord_formatQuad]
  simp [decode16, regField16_eq_regOf16, extract_bit11, extract_fun3, hfree, encode, wordImm3, Instr.WellFormed,
    Instr.wellFormed, isFree]

/-- Op 15 with bit 11 clear: `#fun3` selects. -/
theorem decodesByTable16_fun3 (a c : BitVec 4) (fun3 : BitVec 3) :
    DecodesByTable16 (formatQuad a (0#1 ++ fun3) c 15#4) := by
  rw [DecodesByTable16, freeWord_formatQuad]
  rcases func3_cases fun3 with rfl | rfl | rfl | rfl | rfl | rfl | rfl | rfl <;>
    simp [decode16, decodeFun3, regField16_eq_regOf16, encode, wordFun3, Instr.WellFormed, Instr.wellFormed, isFree]

/-- The decoder does with every V16 word what the tables say of it, by its Op. -/
theorem decodesByTable16 (w : Word16) : DecodesByTable16 w := by
  obtain ⟨a, b, c, op, rfl⟩ := exists_formatQuad w
  by_cases h15 : op = 15#4
  · subst h15
    obtain ⟨bit, fun3, rfl⟩ := exists_eq_append (m := 1) (k := 3) b
    obtain rfl | rfl : bit = 0#1 ∨ bit = 1#1 := by revert bit; decide
    · exact decodesByTable16_fun3 a c fun3
    · exact decodesByTable16_addi a c fun3
  · have ho : op ∈ [0#4, 1#4, 2#4, 3#4, 4#4] ∨ op ∈ [8#4, 9#4, 10#4] ∨
        op ∈ [5#4, 6#4, 7#4, 11#4, 12#4, 13#4, 14#4] := by
      revert op; decide
    rcases ho with h | h | h
    · exact decodesByTable16_rs2 a b c op h
    · exact decodesByTable16_rd a b c op h
    · exact decodesByTable16_plain a b c op h

/-! ### FREE words -/

/-- A FREE row raises `IllegalInstruction` with its own word. -/
theorem exec_of_isFree {i : Instr} (h : isFree i = true) (s : State) :
    exec i s = .next { s with v16 := s.v16.raise (.illegalInstruction (encode i).toNat) } := by
  cases i with
  | v16Free0 | v16Free1 | v16Free3 | v16Free8 | v16Free9 | v16Free10 | v16Free15 => rfl
  | _ => cases h

/-- Settles O4: the decoder gives a FREE row for the FREE words alone, and a step that fetches one runs that row. -/
theorem freeWordsExactly : Obligations.FreeWordsExactly := by
  refine ⟨fun w => ?_, fun s w hi hf hw hfetch => ?_⟩
  · obtain ⟨-, -, hfree⟩ := decodesByTable16 w
    exact ⟨decode16 w, rfl, by rw [hfree]⟩
  · obtain ⟨hencode, -, hfree⟩ := decodesByTable16 w
    refine ⟨_, (step_of_fetch16 hi hf hfetch rfl).trans (exec_of_isFree (hfree.trans hw) s), ?_⟩
    rw [hencode]
    rfl

/-! ### Words as numbers -/

theorem toNat_regBits16 (r : Reg16) : (regBits16 r).toNat = r.val := Nat.mod_eq_of_lt r.isLt

theorem toNat_wordRR (op : BitVec 4) (rd rs1 rs2 : Reg16) :
    (wordRR op rd rs1 rs2).toNat = 4096 * rs1.val + 256 * rs2.val + 16 * rd.val + op.toNat := by
  simp only [wordRR, CodeWord.toNat, toNat_formatQuad, toNat_regBits16]

theorem toNat_wordFun3 (fun3 : BitVec 3) (rd rs1 : Reg16) :
    (wordFun3 fun3 rd rs1).toNat = 4096 * rs1.val + 256 * fun3.toNat + 16 * rd.val + 15 := by
  simp only [wordFun3, CodeWord.toNat, toNat_formatQuad, toNat_regBits16, toNat_append_field, BitVec.toNat_ofNat]
  omega

theorem toNat_wordImm8 (op : BitVec 4) (rd : Reg16) (imm8 : BitVec 8) :
    (wordImm8 op rd imm8).toNat = 256 * imm8.toNat + 16 * rd.val + op.toNat := by
  simp only [wordImm8, CodeWord.toNat, toNat_append_field, toNat_regBits16]
  omega

/-- Settles O55: each FREE row raises its own word, which is its fields' sum. -/
theorem freeRowsFault : Obligations.FreeRowsFault := by
  intro s rd rs1 imm8 word iw hiw
  obtain ⟨hfree, hword⟩ : isFree iw.1 = true ∧ (encode iw.1).toNat = iw.2 := by
    simp only [List.mem_cons, List.not_mem_nil, or_false] at hiw
    rcases hiw with rfl | rfl | rfl | rfl | rfl | rfl | rfl
    · exact ⟨rfl, toNat_wordRR 0 rd rs1 0⟩
    · exact ⟨rfl, toNat_wordRR 1 rd rs1 0⟩
    · exact ⟨rfl, toNat_wordRR 3 rd rs1 0⟩
    · exact ⟨rfl, toNat_wordImm8 8 0 imm8⟩
    · exact ⟨rfl, toNat_wordImm8 9 0 imm8⟩
    · exact ⟨rfl, toNat_wordImm8 10 0 imm8⟩
    · refine ⟨rfl, (toNat_wordFun3 7#3 rd rs1).trans ?_⟩
      simp only [word, BitVec.toNat_ofNat]
      omega
  refine ⟨_, exec_of_isFree hfree s, ?_⟩
  rw [hword]
  rfl

end Sys2Proof.Machine

/-! Decoding and encoding are each other's inverse on both machines (30_encoding.md R90, R106). -/

namespace Sys2Proof.Machine

/-- Settles O1, by the machine of the instruction. -/
theorem decodeOfEncode : Obligations.DecodeOfEncode := by
  intro i hwf
  cases hi : i.isa with
  | rvl32 => exact decode_encode_of_rvl32 hi
  | v16 => exact decode_encode_of_v16 hi hwf

/-- Settles O2, by the machine of the word. -/
theorem encodeOfDecode : Obligations.EncodeOfDecode := by
  intro w i hd
  cases w with
  | rvl32 w =>
    have hi := decode_isa32 w i hd
    exact ⟨wellFormed_of_rvl32 hi, encode_of_decode32 hd, hi⟩
  | v16 w =>
    obtain ⟨hencode, hwf, -⟩ := decodesByTable16 w
    cases hd
    exact ⟨hwf, hencode, decode_isa16 w _ rfl⟩

end Sys2Proof.Machine

/-! Upper immediates and jumps (40_upper_and_jumps.md R130 to R134): each operand as the number it stands for, then each
instruction as a register write or a link. -/

namespace Sys2Proof.Machine

variable {n : Nat}

/-! ### Operands as numbers -/

/-- The twelve zero bits below multiply by 4096 (40_upper_and_jumps.md R130). -/
theorem upperValue_eq (imm20 : BitVec 20) : upperValue imm20 = BitVec.ofNat 32 (4096 * imm20.toNat) := by
  apply BitVec.eq_of_toNat_eq
  rw [upperValue, toNat_append_field, BitVec.toNat_ofNat, BitVec.toNat_ofNat]
  omega

/-- A number added to the one a word holds, as the word's sum. -/
theorem add_ofNat_eq (v : BitVec n) (m : Nat) : v + BitVec.ofNat n m = BitVec.ofNat n (v.toNat + m) := by
  rw [BitVec.ofNat_add, BitVec.ofNat_toNat, BitVec.setWidth_eq]

/-- A signed number added to the one a word holds, as the word's sum. -/
theorem add_ofInt_eq (v : BitVec n) (d : Int) : v + BitVec.ofInt n d = BitVec.ofInt n (v.toNat + d) := by
  rw [BitVec.ofInt_add, BitVec.ofInt_natCast, BitVec.ofNat_toNat, BitVec.setWidth_eq]

/-- A sign-extended field shifted left by `k` is the signed number of the field times `2 ^ k`. -/
theorem signExtend_shiftLeft_eq {m : Nat} (x : BitVec m) (k : Nat) :
    x.signExtend n <<< k = BitVec.ofInt n (2 ^ k * x.toInt) := by
  have hpow : BitVec.ofInt n (2 ^ k) = BitVec.twoPow n k := by
    apply BitVec.eq_of_toNat_eq
    rw [BitVec.toNat_twoPow, ← BitVec.toNat_ofNat, ← BitVec.ofInt_natCast, Nat.cast_pow, Nat.cast_ofNat]
  rw [BitVec.ofInt_mul, hpow, BitVec.shiftLeft_eq_mul_twoPow, BitVec.mul_comm]
  rfl

/-- JAL's offset added to a word (40_upper_and_jumps.md R132). -/
theorem add_jalOffset (v : Word32) (imm20 : BitVec 20) :
    v + jalOffset imm20 = BitVec.ofInt 32 (v.toNat + 4 * imm20.toInt) := by
  rw [jalOffset, signExtend_shiftLeft_eq, add_ofInt_eq]
  rfl

/-- The offset of branches and JALR added to a word (30_encoding.md R88). -/
theorem add_immOffset (v : Word32) (imm12 : BitVec 12) :
    v + immOffset imm12 = BitVec.ofInt 32 (v.toNat + 4 * imm12.toInt) := by
  rw [immOffset, signExtend_shiftLeft_eq, add_ofInt_eq]
  rfl

/-! ### JALR, by the alignment of its target -/

/-- To a multiple of 4, JALR is a link. -/
theorem exec_jalr_aligned (s : State) (rd rs1 : Reg32) (imm12 : BitVec 12)
    (h : (s.rvl32.x rs1 + immOffset imm12).toNat % 4 = 0) :
    exec (.jalr rd rs1 imm12) s =
      .next { s with rvl32 := s.rvl32.link rd (s.rvl32.x rs1 + immOffset imm12) } :=
  congrArg s.next32 (Hart.linkAligned_aligned s.rvl32 rd _ h)

/-- To any other target, JALR itself faults. -/
theorem exec_jalr_misaligned (s : State) (rd rs1 : Reg32) (imm12 : BitVec 12)
    (h : (s.rvl32.x rs1 + immOffset imm12).toNat % 4 ≠ 0) :
    exec (.jalr rd rs1 imm12) s =
      .next { s with rvl32 := s.rvl32.raise (.misalignedFetch (s.rvl32.x rs1 + immOffset imm12).toNat) } :=
  congrArg s.next32 (Hart.linkAligned_misaligned s.rvl32 rd _ h)

/-! ### The statements -/

/-- Settles O35: JAL links to its scaled target, and JALR does where its target is aligned. -/
theorem jumpResults32 : Obligations.JumpResults32 := by
  refine ⟨fun s rd imm20 => ⟨_, rfl, wrote32_link s rd (add_jalOffset s.rvl32.pc imm20)⟩, ?_⟩
  intro s rd rs1 imm12 target
  have htarget : s.rvl32.x rs1 + immOffset imm12 = target := add_immOffset (s.rvl32.x rs1) imm12
  rw [← htarget]
  refine ⟨fun haligned => ?_, fun hmisaligned => ?_⟩
  · exact ⟨_, exec_jalr_aligned s rd rs1 imm12 haligned, wrote32_link s rd rfl⟩
  · exact ⟨_, exec_jalr_misaligned s rd rs1 imm12 hmisaligned, rfl⟩

/-- Settles O34: both write a register and go on, and their operand is the scaled immediate. -/
theorem upperImmediateResults : Obligations.UpperImmediateResults := by
  intro s rd imm20
  have hsum : s.rvl32.pc + upperValue imm20 = BitVec.ofNat 32 (s.rvl32.pc.toNat + 4096 * imm20.toNat) := by
    rw [upperValue_eq, add_ofNat_eq]
  exact ⟨⟨_, rfl, wrote32_writeNext s rd (upperValue_eq imm20)⟩, _, rfl, wrote32_writeNext s rd hsum⟩

end Sys2Proof.Machine

/-! The six branches (41_branches.md R140 to R147): each comparison on the numbers of its two words, then one rule for the
move of the pc, taken when a condition on those numbers holds or unless it does. -/

namespace Sys2Proof.Machine

/-! ### The comparisons as numbers -/

section Comparisons

variable {n : Nat} (a b : BitVec n)

theorem Cond.holds_eq_iff : Cond.eq.holds a b ↔ a.toNat = b.toNat := by
  rw [Cond.holds, decide_eq_true_iff, BitVec.toNat_inj]

theorem Cond.holds_ne_iff : Cond.ne.holds a b ↔ ¬ a.toNat = b.toNat := by
  rw [Cond.holds, decide_eq_true_iff, BitVec.toNat_inj]

theorem Cond.holds_lt_iff : Cond.lt.holds a b ↔ a.toInt < b.toInt := decide_eq_true_iff

theorem Cond.holds_ge_iff : Cond.ge.holds a b ↔ ¬ a.toInt < b.toInt := by
  rw [Cond.holds, decide_eq_true_iff, Int.not_lt]

theorem Cond.holds_ltu_iff : Cond.ltu.holds a b ↔ a.toNat < b.toNat := decide_eq_true_iff

theorem Cond.holds_geu_iff : Cond.geu.holds a b ↔ ¬ a.toNat < b.toNat := by
  rw [Cond.holds, decide_eq_true_iff, Nat.not_lt]

end Comparisons

/-! ### The move of the pc -/

section Moves

variable {s : State} {c : Cond} {rd rs1 : Reg32} {p : Prop} [Decidable p]

/-- A branch whose comparison means `p` is taken when `p` holds (41_branches.md R141). -/
theorem moved32_branch_if (imm12 : BitVec 12) (hc : c.holds (s.rvl32.x rd) (s.rvl32.x rs1) ↔ p) :
    Moved32 s { s with rvl32 := s.rvl32.branch c rd rs1 imm12 }
      (if p then BitVec.ofInt 32 (s.rvl32.pc.toNat + 4 * imm12.toInt) else s.rvl32.pc + 4#32) :=
  moved32_jump s (if_congr hc (add_immOffset s.rvl32.pc imm12) rfl)

/-- A branch whose comparison means that `p` fails is taken unless `p` holds. -/
theorem moved32_branch_unless (imm12 : BitVec 12) (hc : c.holds (s.rvl32.x rd) (s.rvl32.x rs1) ↔ ¬ p) :
    Moved32 s { s with rvl32 := s.rvl32.branch c rd rs1 imm12 }
      (if p then s.rvl32.pc + 4#32 else BitVec.ofInt 32 (s.rvl32.pc.toNat + 4 * imm12.toInt)) := by
  rw [← ite_not]
  exact moved32_branch_if imm12 hc

end Moves

/-! ### The statement -/

/-- Settles O36: each comparison is a condition on the two numbers or its failure. -/
theorem branchResults : Obligations.BranchResults := by
  intro s rd rs1 imm12 a b target next
  have hbeq := moved32_branch_if imm12 (Cond.holds_eq_iff a b)
  have hbne := moved32_branch_unless imm12 (Cond.holds_ne_iff a b)
  have hblt := moved32_branch_if imm12 (Cond.holds_lt_iff a b)
  have hbge := moved32_branch_unless imm12 (Cond.holds_ge_iff a b)
  have hbltu := moved32_branch_if imm12 (Cond.holds_ltu_iff a b)
  have hbgeu := moved32_branch_unless imm12 (Cond.holds_geu_iff a b)
  exact ⟨⟨_, rfl, hbeq⟩, ⟨_, rfl, hbne⟩, ⟨_, rfl, hblt⟩, ⟨_, rfl, hbge⟩, ⟨_, rfl, hbltu⟩, ⟨_, rfl, hbgeu⟩⟩

end Sys2Proof.Machine

/-! RVL32 loads and stores of ordinary memory (42_loads_stores.md R151 to R160): an access that is aligned and valid is let
through, and has the results of any access to ordinary memory. -/

namespace Sys2Proof.Machine

theorem lb_mem_loads32 (rd rs1 : Reg32) (imm12 : BitVec 12) (b : Nat → Byte) :
    (.lb rd rs1 imm12, 1, BitVec.ofInt 32 (b 0).toInt) ∈ loads32 rd rs1 imm12 b := by
  simp [loads32]

theorem sb_mem_stores32 (rd rs1 : Reg32) (imm12 : BitVec 12) : (.sb rd rs1 imm12, 1) ∈ stores32 rd rs1 imm12 := by
  simp [stores32]

/-- Settles O25, by the width: each load is one of the hart's, with its bytes widened as listed. -/
theorem loadResults32 : Obligations.LoadResults32 := by
  intro s rd rs1 imm12 h addr
  refine ⟨fun ok ho => ⟨?lb, ?lbu⟩, fun ok ho => ⟨?lh, ?lhu⟩, fun ok ho => ?lw⟩
  case lb => exact exec_load_ordinary32 (lb_mem_loads32 rd rs1 imm12 (h.byteAt addr)) (.inl ok) ho
  case lbu => exact exec_load_ordinary32 (lbu_mem_loads32 rd rs1 imm12 (h.byteAt addr)) (.inl ok) ho
  case lh => exact exec_load_ordinary32 (lh_mem_loads32 rd rs1 imm12 (h.byteAt addr)) (.inl ok) ho
  case lhu => exact exec_load_ordinary32 (lhu_mem_loads32 rd rs1 imm12 (h.byteAt addr)) (.inl ok) ho
  case lw => exact exec_load_ordinary32 (lw_mem_loads32 rd rs1 imm12 (h.byteAt addr)) (.inl ok) ho

/-- Settles O26, by the width: each store is one of the hart's. -/
theorem storeResults32 : Obligations.StoreResults32 := by
  intro s rd rs1 imm12 h addr hm
  refine ⟨fun ok ho => ?sb, fun ok ho => ?sh, fun ok ho => ?sw⟩
  case sb => exact exec_store_ordinary32 (sb_mem_stores32 rd rs1 imm12) hm (.inl ok) ho
  case sh => exact exec_store_ordinary32 (sh_mem_stores32 rd rs1 imm12) hm (.inl ok) ho
  case sw => exact exec_store_ordinary32 (sw_mem_stores32 rd rs1 imm12) hm (.inl ok) ho

end Sys2Proof.Machine

/-! Register-immediate instructions (43_op_imm.md R165 to R174): each operation on words as the one on the numbers they
hold, then each instruction as a register write. -/

namespace Sys2Proof.Machine

/-! ### Operations as numbers -/

section Words

variable {n : Nat}

/-- A sum of words is the word of their signed sum. -/
theorem add_eq_ofInt (v w : BitVec n) : v + w = BitVec.ofInt n (v.toInt + w.toInt) := by
  rw [BitVec.ofInt_add, BitVec.ofInt_toInt, BitVec.ofInt_toInt]

/-- The result of a comparison that means `p`. -/
theorem boolWord_eq_ite {b : Bool} {p : Prop} [Decidable p] (h : b ↔ p) : boolWord n b = if p then 1#n else 0#n :=
  if_congr h rfl rfl

/-- A shift left multiplies by a power of two. -/
theorem shiftLeft_eq_ofNat (v : BitVec n) (k : Nat) : v <<< k = BitVec.ofNat n (v.toNat * 2 ^ k) :=
  congrArg (BitVec.ofNat n) (Nat.shiftLeft_eq v.toNat k)

/-- A logical shift right divides the unsigned number by a power of two. -/
theorem ushiftRight_eq_ofNat (v : BitVec n) (k : Nat) : v >>> k = BitVec.ofNat n (v.toNat / 2 ^ k) := by
  rw [← Nat.shiftRight_eq_div_pow, ← BitVec.toNat_ushiftRight, BitVec.ofNat_toNat, BitVec.setWidth_eq]

/-- An arithmetic shift right divides the signed number by a power of two, rounding down. -/
theorem sshiftRight_eq_ofInt (v : BitVec n) (k : Nat) : v.sshiftRight k = BitVec.ofInt n (v.toInt / 2 ^ k) := by
  rw [BitVec.sshiftRight, Int.shiftRight_eq_div_pow, Nat.cast_pow, Nat.cast_ofNat]

end Words

/-- The immediate is the word of its signed number (43_op_imm.md R165). -/
theorem immValue_eq (imm12 : BitVec 12) : immValue imm12 = BitVec.ofInt 32 imm12.toInt := rfl

/-- Sign extension keeps the signed number of the immediate. -/
@[simp] theorem toInt_immValue (imm12 : BitVec 12) : (immValue imm12).toInt = imm12.toInt :=
  BitVec.toInt_signExtend_of_le (by decide)

/-! ### The statements -/

/-- Settles O37: each writes a register and goes on, and its second operand is the immediate's signed number. -/
theorem opImmResults : Obligations.OpImmResults := by
  intro s rd rs1 imm12 a imm next
  have himm : immValue imm12 = imm := immValue_eq imm12
  have hsum : a + immValue imm12 = BitVec.ofInt 32 (a.toInt + imm12.toInt) := by
    rw [add_eq_ofInt, toInt_immValue]
  have hlt : Cond.lt.holds a (immValue imm12) ↔ a.toInt < imm12.toInt := by
    rw [Cond.holds_lt_iff, toInt_immValue]
  have hltu : Cond.ltu.holds a (immValue imm12) ↔ a.toNat < imm.toNat := by
    rw [Cond.holds_ltu_iff, himm]
  refine ⟨⟨_, rfl, ?addi⟩, ⟨_, rfl, ?slti⟩, ⟨_, rfl, ?sltiu⟩, ⟨_, rfl, ?xori⟩, ⟨_, rfl, ?ori⟩, _, rfl, ?andi⟩
  case addi => exact wrote32_writeNext s rd hsum
  case slti => exact wrote32_writeNext s rd (boolWord_eq_ite hlt)
  case sltiu => exact wrote32_writeNext s rd (boolWord_eq_ite hltu)
  case xori => exact wrote32_writeNext s rd (congrArg (a ^^^ ·) himm)
  case ori => exact wrote32_writeNext s rd (congrArg (a ||| ·) himm)
  case andi => exact wrote32_writeNext s rd (congrArg (a &&& ·) himm)

/-- Settles O38: each writes a register and goes on, and each shift is a product or a quotient. -/
theorem shiftImmediateResults : Obligations.ShiftImmediateResults := by
  intro s rd rs1 imm5 a next
  have hleft := shiftLeft_eq_ofNat a imm5.toNat
  have hlogical := ushiftRight_eq_ofNat a imm5.toNat
  have harithmetic := sshiftRight_eq_ofInt a imm5.toNat
  refine ⟨⟨_, rfl, ?slli⟩, ⟨_, rfl, ?srli⟩, _, rfl, ?srai⟩
  case slli => exact wrote32_writeNext s rd hleft
  case srli => exact wrote32_writeNext s rd hlogical
  case srai => exact wrote32_writeNext s rd harithmetic

end Sys2Proof.Machine

/-! Register-register instructions (44_op.md R180 to R190): the operations the immediate forms do not have as ones on numbers,
then each instruction as a register write. -/

namespace Sys2Proof.Machine

/-! ### Operations as numbers -/

/-- A difference of words is the word of their signed difference. -/
theorem sub_eq_ofInt {n : Nat} (v w : BitVec n) : v - w = BitVec.ofInt n (v.toInt - w.toInt) := by
  apply BitVec.eq_of_toInt_eq
  rw [BitVec.toInt_sub, BitVec.toInt_ofInt]

/-- The low five bits of a word are its remainder by 32 (44_op.md R180). -/
theorem shiftAmount_eq (v : Word32) : shiftAmount v = v.toNat % 32 := by
  rw [shiftAmount, BitVec.extractLsb'_toNat, Nat.shiftRight_zero]

/-! ### The statement -/

/-- Settles O39: each writes a register and goes on, and the three shifts are by a remainder. -/
theorem opResults : Obligations.OpResults := by
  intro s rd rs1 rs2 a b sh next
  have hsh : shiftAmount b = sh := shiftAmount_eq b
  have hlt : Cond.lt.holds a b ↔ a.toInt < b.toInt := Cond.holds_lt_iff a b
  have hltu : Cond.ltu.holds a b ↔ a.toNat < b.toNat := Cond.holds_ltu_iff a b
  have hleft : a <<< shiftAmount b = BitVec.ofNat 32 (a.toNat * 2 ^ sh) := by
    rw [hsh, shiftLeft_eq_ofNat]
  have hlogical : a >>> shiftAmount b = BitVec.ofNat 32 (a.toNat / 2 ^ sh) := by
    rw [hsh, ushiftRight_eq_ofNat]
  have harithmetic : a.sshiftRight (shiftAmount b) = BitVec.ofInt 32 (a.toInt / 2 ^ sh) := by
    rw [hsh, sshiftRight_eq_ofInt]
  refine ⟨⟨_, rfl, ?add⟩, ⟨_, rfl, ?sub⟩, ⟨_, rfl, ?sll⟩, ⟨_, rfl, ?slt⟩, ⟨_, rfl, ?sltu⟩, ⟨_, rfl, ?xor⟩, ⟨_, rfl, ?srl⟩,
    ⟨_, rfl, ?sra⟩, ⟨_, rfl, ?or⟩, _, rfl, ?and⟩
  case add => exact wrote32_writeNext s rd (BitVec.add_def a b)
  case sub => exact wrote32_writeNext s rd (sub_eq_ofInt a b)
  case sll => exact wrote32_writeNext s rd hleft
  case slt => exact wrote32_writeNext s rd (boolWord_eq_ite hlt)
  case sltu => exact wrote32_writeNext s rd (boolWord_eq_ite hltu)
  case xor => exact wrote32_writeNext s rd rfl
  case srl => exact wrote32_writeNext s rd hlogical
  case sra => exact wrote32_writeNext s rd harithmetic
  case or => exact wrote32_writeNext s rd rfl
  case and => exact wrote32_writeNext s rd rfl

end Sys2Proof.Machine

/-! MISC-MEM and SYSTEM (45_misc_mem_system.md): the words of FENCE, FENCE.I, ECALL, EBREAK and WFI by what encodes to them,
the fault of the four rows marked NOT IMPLEMENTED, the wait of WFI, and the CSR instructions on plain storage. -/

namespace Sys2Proof.Machine

/-! ### Which words decode to an instruction -/

/-- An RVL32 word decodes to an instruction exactly when it is the instruction's word (30_encoding.md R90). -/
theorem decode_rvl32_eq_ok_iff {w : Word32} {i : Instr} (hi : i.isa = .rvl32) :
    decode (.rvl32 w) = .ok i ↔ encode i = .rvl32 w :=
  ⟨encode_of_decode32, fun h => h ▸ decode_encode_of_rvl32 hi⟩

/-- Settles O5: each RVL32 word is the word of its instruction; the V16 decoder is run on its six. -/
theorem decodeWrittenWords : Obligations.DecodeWrittenWords := by
  refine ⟨?lui, ?jal, ?beq, ?addi, ?lw, ?add, ?wfi, ?csrrw, ?div, ?v16⟩
  case v16 => exact ⟨rfl, rfl, rfl, rfl, rfl, rfl⟩
  all_goals exact (decode_rvl32_eq_ok_iff rfl).2 rfl

/-! ### The words of MISC-MEM -/

/-- Words of four fields are masked field by field. -/
theorem append_and_append {a b c d : Nat} (x x' : BitVec a) (y y' : BitVec b) (z z' : BitVec c) (u u' : BitVec d) :
    (x ++ y ++ z ++ u) &&& (x' ++ y' ++ z' ++ u') = (x &&& x') ++ (y &&& y') ++ (z &&& z') ++ (u &&& u') := by
  simp only [BitVec.and_append]

/-- The mask 0x0000707F keeps func3 and the opcode. -/
theorem formatMisc_and_mask (hi : BitVec 17) (func3 : BitVec 3) (mid : BitVec 5) :
    formatMisc hi func3 mid &&& 0x0000707F#32 = formatMisc 0#17 func3 0#5 :=
  calc formatMisc hi func3 mid &&& (0#17 ++ BitVec.allOnes 3 ++ 0#5 ++ BitVec.allOnes 7 : Word32)
    _ = (hi &&& 0#17) ++ (func3 &&& BitVec.allOnes 3) ++ (mid &&& 0#5) ++ (0b0001111#7 &&& BitVec.allOnes 7) :=
      append_and_append ..
    _ = formatMisc 0#17 func3 0#5 := by
      rw [BitVec.and_zero, BitVec.and_zero, BitVec.and_allOnes, BitVec.and_allOnes, formatMisc]

/-- The opcode of a word is that of the word under the mask. -/
theorem opcode_of_and_mask (w : Word32) : (w &&& 0x0000707F#32).extractLsb' 0 7 = w.extractLsb' 0 7 :=
  BitVec.extractLsb'_and.trans BitVec.and_allOnes

/-- The words with a given match under the mask are the MISC-MEM words with its func3. -/
theorem and_mask_eq_iff {w : Word32} {func3 : BitVec 3} :
    w &&& 0x0000707F#32 = formatMisc 0#17 func3 0#5 ↔ ∃ hi mid, w = formatMisc hi func3 mid := by
  constructor
  · intro h
    have hopcode : w.extractLsb' 0 7 = 0b0001111#7 := by
      rw [← opcode_of_and_mask, h, formatMisc_opcode]
    obtain ⟨hi, func3', mid, rfl⟩ := exists_formatMisc hopcode
    have hfunc3 : func3' = func3 := by
      simpa [formatMisc_and_mask] using congrArg (BitVec.extractLsb' 12 3) h
    exact ⟨hi, mid, by rw [hfunc3]⟩
  · rintro ⟨hi, mid, rfl⟩
    exact formatMisc_and_mask hi func3 mid

/-- A MISC-MEM word as a number, by its fields. -/
theorem toNat_formatMisc (hi : BitVec 17) (func3 : BitVec 3) (mid : BitVec 5) :
    (formatMisc hi func3 mid).toNat = hi.toNat * 2 ^ 15 + func3.toNat * 2 ^ 12 + mid.toNat * 2 ^ 7 + 0x0F := by
  simp only [formatMisc, toNat_append_field, BitVec.toNat_ofNat]
  omega

/-- A row of MISC-MEM with one func3 is every word with that match under the mask; `number` gives the words as
numbers. -/
theorem miscMem_words {row : BitVec 17 → BitVec 5 → Instr} {number : BitVec 17 → BitVec 5 → Nat} {func3 : BitVec 3}
    (hisa : ∀ hi mid, (row hi mid).isa = .rvl32)
    (hword : ∀ hi mid, encode (row hi mid) = .rvl32 (formatMisc hi func3 mid))
    (hnumber : ∀ hi mid, (formatMisc hi func3 mid).toNat = number hi mid) (w : Word32) :
    w &&& 0x0000707F#32 = formatMisc 0#17 func3 0#5 ↔
      ∃ hi mid, decode (.rvl32 w) = .ok (row hi mid) ∧ w.toNat = number hi mid := by
  refine and_mask_eq_iff.trans (exists₂_congr fun hi mid => ?_)
  rw [decode_rvl32_eq_ok_iff (hisa hi mid), hword, CodeWord.rvl32.injEq]
  constructor
  · rintro rfl
    exact ⟨rfl, hnumber hi mid⟩
  · rintro ⟨h, -⟩
    exact h.symm

/-- The word of FENCE as a number. -/
theorem toNat_formatMisc_fence (hi : BitVec 17) (mid : BitVec 5) :
    (formatMisc hi 0b000#3 mid).toNat = hi.toNat * 2 ^ 15 + mid.toNat * 2 ^ 7 + 0x0F := by
  simp [toNat_formatMisc]

/-- The word of FENCE.I as a number. -/
theorem toNat_formatMisc_fenceI (hi : BitVec 17) (mid : BitVec 5) :
    (formatMisc hi 0b001#3 mid).toNat = hi.toNat * 2 ^ 15 + 2 ^ 12 + mid.toNat * 2 ^ 7 + 0x0F := by
  simp [toNat_formatMisc]

/-- An instruction that one word alone encodes. -/
theorem eq_word_iff_decode {w v : Word32} {i : Instr} (hi : i.isa = .rvl32) (hv : encode i = .rvl32 v) :
    w = v ↔ decode (.rvl32 w) = .ok i := by
  rw [decode_rvl32_eq_ok_iff hi, hv, CodeWord.rvl32.injEq, eq_comm]

/-! ### The rows marked NOT IMPLEMENTED -/

/-- Settles O47: each row raises the number of its own word, and a word decodes to a row when it is a word of the row. -/
theorem unimplementedRows : Obligations.UnimplementedRows := by
  refine ⟨fun s hi mid => ?_, fun s => ⟨⟨_, rfl, rfl⟩, _, rfl, rfl⟩, fun w => ⟨?fence, ?fenceI, ?ecall, ?ebreak⟩⟩
  · rw [← toNat_formatMisc_fence, ← toNat_formatMisc_fenceI]
    exact ⟨⟨_, rfl, rfl⟩, _, rfl, rfl⟩
  case fence => exact miscMem_words (fun _ _ => rfl) (fun _ _ => rfl) toNat_formatMisc_fence w
  case fenceI => exact miscMem_words (fun _ _ => rfl) (fun _ _ => rfl) toNat_formatMisc_fenceI w
  case ecall => exact eq_word_iff_decode rfl rfl
  case ebreak => exact eq_word_iff_decode rfl rfl

/-! ### WFI and its wait -/

/-- SYSTEM with func3 000 and the func7 of WFI has no other row: ECALL and EBREAK have another func7. -/
theorem reservedWord_of_wfi_fields {w : Word32} (hopcode : w.extractLsb' 0 7 = 0b1110011#7)
    (hfunc3 : w.extractLsb' 12 3 = 0b000#3) (hfunc7 : w.extractLsb' 25 7 = 0b0001000#7) (hne : w ≠ 0x10500073#32) :
    reservedWord w = true := by
  have hecall : w ≠ 0x00000073#32 := by
    rintro rfl
    exact absurd hfunc7 (by decide)
  have hebreak : w ≠ 0x00100073#32 := by
    rintro rfl
    exact absurd hfunc7 (by decide)
  simp [reservedWord, hopcode, hfunc3, hne, hecall, hebreak]

/-- A step of RVL32 that waits and is not stuck reads `wake` and does nothing else. -/
theorem step_eq_waitStep {s : State} (hi : s.isa = .rvl32) (hf : s.rvl32.fault = none) (hw : s.waiting = true) :
    step s = .next s.waitStep := by
  simp [step, hi, State.step32, hf, hw]

/-- No value of `wake` left: it reads as false (log 11). -/
theorem State.waitStep_nil {s : State} (h : s.wake = []) : s.waitStep = s := by
  rw [State.waitStep, h]

theorem State.waitStep_false {s : State} {rest : List Bool} (h : s.wake = false :: rest) :
    s.waitStep = { s with wake := rest } := by
  rw [State.waitStep, h]

theorem State.waitStep_true {s : State} {rest : List Bool} (h : s.wake = true :: rest) :
    s.waitStep = { s with wake := rest, waiting := false } := by
  rw [State.waitStep, h]

/-- Settles O12: WFI by its word and its meaning, then the three cases of the input `wake`. -/
theorem waitForInterrupt : Obligations.WaitForInterrupt := by
  refine ⟨fun w => ⟨(eq_word_iff_decode rfl rfl).symm, fun hopcode hfunc3 hfunc7 hne => ?_⟩, fun s => rfl,
    fun s hi hf hw => ?_⟩
  · exact (reservedWord_iff w).1 (reservedWord_of_wfi_fields hopcode hfunc3 hfunc7 hne)
  · rw [step_eq_waitStep hi hf hw]
    exact ⟨fun h => congrArg _ (s.waitStep_nil h), fun rest h => congrArg _ (s.waitStep_false h),
      fun rest h => congrArg _ (s.waitStep_true h)⟩

/-! ### CSR instructions on plain storage -/

/-- The cells after one is replaced, and whatever becomes of the hart. -/
theorem State.csr_set (s : State) (h : Hart 32) (c d : BitVec 6) (v : CsrCell) :
    State.csr { s with csrs := s.csrs.set c.toNat v c.isLt, rvl32 := h } d = if d = c then v else s.csr d := by
  simp only [State.csr, Vector.getElem_set, BitVec.toNat_inj, eq_comm]

/-- Settles O43: one access reads the cell, replaces it and writes the value read to `x[rd]`. -/
theorem csrStorageResults : Obligations.CsrStorageResults := by
  intro s rd rs1 imm5 c old hc a imm iv hiv
  obtain ⟨new, hexec, hnew⟩ := State.exec_csrWrites (s := s) (old := old) hiv
  obtain ⟨hx, hpc, hregs, hmem, hhidden, -⟩ := wrote32_writeNext s rd (rfl : old = old)
  refine ⟨_, hexec.trans (State.csrAccess_storage s rd c new old hc), ?written, fun d hd => ?others,
    fun hr => hx fun e => hr (Fin.ext e), hpc, hregs, hmem, hhidden, rfl, rfl, rfl, rfl, rfl⟩
  case written => rw [State.csr_set, if_pos rfl, hnew]
  case others => rw [State.csr_set, if_neg hd]

end Sys2Proof.Machine

/-! Multiply and divide (46_muldiv.md R215 to R223): each operation as one on the numbers of its two words, then each
instruction as a register write, and quotient and remainder as the two parts of one division. -/

namespace Sys2Proof.Machine

/-! ### Products as numbers -/

/-- A product of words is the word of their signed product. -/
theorem mul_eq_ofInt {n : Nat} (v w : BitVec n) : v * w = BitVec.ofInt n (v.toInt * w.toInt) := by
  rw [BitVec.ofInt_mul, BitVec.ofInt_toInt, BitVec.ofInt_toInt]

/-- Bits [63:32] of a product are its quotient by 2^32, rounded down. -/
theorem productHigh_eq (p : Int) : productHigh p = BitVec.ofInt 32 (p / 2 ^ 32) := by
  apply BitVec.eq_of_toNat_eq
  rw [productHigh, BitVec.extractLsb'_toNat, Nat.shiftRight_eq_div_pow, BitVec.toNat_ofInt, BitVec.toNat_ofInt]
  omega

/-- Bits [63:32] of the product of two unsigned numbers. -/
theorem productHigh_natCast (a b : Nat) : productHigh (a * b) = BitVec.ofNat 32 (a * b / 2 ^ 32) := by
  rw [productHigh_eq, ← BitVec.ofInt_natCast]
  norm_cast

/-! ### Quotients and remainders as numbers -/

/-- A word is 0 where its number is. -/
theorem toNat_eq_zero_iff {n : Nat} {v : BitVec n} : v.toNat = 0 ↔ v = 0#n := BitVec.toNat_inj (y := 0#n)

/-- The operands of the overflowing quotient, `-2^31 / -1` (46_muldiv.md R220). -/
theorem overflow_iff {a b : Word32} :
    (a.toInt = -2 ^ 31 ∧ b.toInt = -1) ↔ a = 0x80000000#32 ∧ b = 0xFFFFFFFF#32 :=
  and_congr (BitVec.toInt_inj (y := 0x80000000#32)) (BitVec.toInt_inj (y := 0xFFFFFFFF#32))

theorem divSigned_eq (a b : Word32) :
    divSigned a b = if b.toNat = 0 then 0xFFFFFFFF#32 else if a.toInt = -2 ^ 31 ∧ b.toInt = -1 then 0x80000000#32
      else BitVec.ofInt 32 (a.toInt.tdiv b.toInt) := by
  simp only [toNat_eq_zero_iff, overflow_iff, divSigned]

theorem divUnsigned_eq (a b : Word32) :
    divUnsigned a b = if b.toNat = 0 then 0xFFFFFFFF#32 else BitVec.ofNat 32 (a.toNat / b.toNat) := by
  simp only [toNat_eq_zero_iff, divUnsigned]

theorem remSigned_eq (a b : Word32) :
    remSigned a b = if b.toNat = 0 then a else if a.toInt = -2 ^ 31 ∧ b.toInt = -1 then 0#32
      else BitVec.ofInt 32 (a.toInt.tmod b.toInt) := by
  simp only [toNat_eq_zero_iff, overflow_iff, remSigned, Int.tmod_def]

theorem remUnsigned_eq (a b : Word32) :
    remUnsigned a b = if b.toNat = 0 then a else BitVec.ofNat 32 (a.toNat % b.toNat) := by
  simp only [toNat_eq_zero_iff, remUnsigned]

section NonzeroDivisor

variable {a b : Word32} (hb : b ≠ 0#32)
include hb

/-- The quotient that does not overflow fits in a word. -/
theorem toInt_divSigned (ho : ¬ (a = 0x80000000#32 ∧ b = 0xFFFFFFFF#32)) :
    (divSigned a b).toInt = a.toInt.tdiv b.toInt := by
  have hfits : (a.sdiv b).toInt = a.toInt.tdiv b.toInt := BitVec.toInt_sdiv_of_ne_or_ne a b (not_and_or.1 ho)
  rw [divSigned, if_neg hb, if_neg ho, ← hfits, BitVec.ofInt_toInt]

/-- The remainder fits in a word. -/
theorem toInt_remSigned (ho : ¬ (a = 0x80000000#32 ∧ b = 0xFFFFFFFF#32)) :
    (remSigned a b).toInt = a.toInt.tmod b.toInt := by
  rw [remSigned, if_neg hb, if_neg ho, ← Int.tmod_def, ← BitVec.toInt_srem, BitVec.ofInt_toInt]

theorem toNat_divUnsigned : (divUnsigned a b).toNat = a.toNat / b.toNat := by
  rw [divUnsigned, if_neg hb, ← BitVec.udiv_def, BitVec.toNat_udiv]

theorem toNat_remUnsigned : (remUnsigned a b).toNat = a.toNat % b.toNat := by
  rw [remUnsigned, if_neg hb, ← BitVec.umod_def, BitVec.toNat_umod]

end NonzeroDivisor

/-! ### The remainder of a division toward zero -/

/-- The remainder is smaller than the divisor in magnitude. -/
theorem abs_tmod_lt_abs (a : Int) {b : Int} (hb : b ≠ 0) : |a.tmod b| < |b| := by
  rw [Int.abs_eq_natAbs, Int.abs_eq_natAbs, Int.natAbs_tmod, Int.ofNat_lt]
  exact Nat.mod_lt _ (Int.natAbs_pos.2 hb)

/-- The remainder has the sign of the dividend or is zero. -/
theorem mul_tmod_nonneg (a b : Int) : 0 ≤ a * a.tmod b := by
  rcases le_total 0 a with ha | ha
  · exact mul_nonneg ha (Int.tmod_nonneg b ha)
  · have hneg : 0 ≤ -a.tmod b := Int.neg_tmod a b ▸ Int.tmod_nonneg b (neg_nonneg.2 ha)
    exact mul_nonneg_of_nonpos_of_nonpos ha (neg_nonneg.1 hneg)

/-! ### The statements -/

/-- Settles O40: each writes a register and goes on, MUL with the low half of the product and the others with the high. -/
theorem multiplyResults : Obligations.MultiplyResults := by
  intro s rd rs1 rs2 a b next
  refine ⟨⟨_, rfl, ?mul⟩, ⟨_, rfl, ?mulh⟩, ⟨_, rfl, ?mulhsu⟩, _, rfl, ?mulhu⟩
  case mul => exact wrote32_writeNext s rd (mul_eq_ofInt a b)
  case mulh => exact wrote32_writeNext s rd (productHigh_eq (a.toInt * b.toInt))
  case mulhsu => exact wrote32_writeNext s rd (productHigh_eq (a.toInt * b.toNat))
  case mulhu => exact wrote32_writeNext s rd (productHigh_natCast a.toNat b.toNat)

/-- Settles O41: each writes a register and goes on, whatever its operands. -/
theorem divideResults : Obligations.DivideResults := by
  intro s rd rs1 rs2 a b next overflow
  refine ⟨⟨_, rfl, ?div⟩, ⟨_, rfl, ?divu⟩, ⟨_, rfl, ?rem⟩, _, rfl, ?remu⟩
  case div => exact wrote32_writeNext s rd (divSigned_eq a b)
  case divu => exact wrote32_writeNext s rd (divUnsigned_eq a b)
  case rem => exact wrote32_writeNext s rd (remSigned_eq a b)
  case remu => exact wrote32_writeNext s rd (remUnsigned_eq a b)

/-- What an instruction that writes a register leaves in it. -/
theorem x_of_next32_writeNext {s t : State} {rd : Reg32} {v : Word32} (hr : rd ≠ 0)
    (h : s.next32 (s.rvl32.writeNext rd v) = .next t) : t.rvl32.x rd = v := by
  obtain rfl := Host.Outcome.next.inj h
  obtain ⟨hx, -⟩ := wrote32_writeNext s rd (rfl : v = v)
  exact hx fun e => hr (Fin.ext e)

/-- Settles O42: the registers hold quotient and remainder as numbers, and the rest is the division of those numbers. -/
theorem divisionIdentity : Obligations.DivisionIdentity := by
  intro s tq tr rd rs1 rs2 a b hr hb
  refine ⟨fun ho hdiv hrem => ?signed, fun hdivu hremu => ?unsigned⟩
  case signed =>
    have hq : tq.rvl32.x rd = divSigned a b := x_of_next32_writeNext hr hdiv
    have hm : tr.rvl32.x rd = remSigned a b := x_of_next32_writeNext hr hrem
    have hb0 : b.toInt ≠ 0 := fun e => hb (BitVec.eq_of_toInt_eq e)
    rw [hq, hm, toInt_divSigned hb ho, toInt_remSigned hb ho]
    exact ⟨(Int.tdiv_mul_add_tmod a.toInt b.toInt).symm, abs_tmod_lt_abs a.toInt hb0, mul_tmod_nonneg a.toInt b.toInt⟩
  case unsigned =>
    have hq : tq.rvl32.x rd = divUnsigned a b := x_of_next32_writeNext hr hdivu
    have hm : tr.rvl32.x rd = remUnsigned a b := x_of_next32_writeNext hr hremu
    have hb0 : 0 < b.toNat := Nat.pos_of_ne_zero fun e => hb (toNat_eq_zero_iff.1 e)
    rw [hq, hm, toNat_divUnsigned hb, toNat_remUnsigned hb]
    exact ⟨(Nat.div_add_mod' a.toNat b.toNat).symm, Nat.mod_lt a.toNat hb0⟩

end Sys2Proof.Machine

/-! What a step can do to the terminal fault (60_exceptions.md R301 to R305): every instruction answers a next state, and
there it has either left the fault as it was or entered one that its platform permits, with nothing else changed. -/

namespace Sys2Proof.Machine

variable {n : Nat}

/-! ### The faults a platform permits -/

/-- Some access of an instruction's width is not valid (20_memory.md R55). -/
def Hart.SomeInvalid (h : Hart n) : Prop :=
  ∃ a, a < 2 ^ n ∧ (h.platform.valid .fetch a (ilen n) = false ∨
    ∃ width ∈ [1, 2, n / 8], h.platform.valid .load a width = false ∨ h.platform.valid .store a width = false)

/-- The faults that a hart's platform lets it enter (60_exceptions.md R302, R305): the policies and the map rule some out,
and V16 has neither unimplemented rows nor CSRs. -/
def Hart.Permits (h : Hart n) : Fault → Prop
  | .misalignedFetch _ | .illegalInstruction _ => True
  | .accessFault _ => h.SomeInvalid
  | .fetchAfterStore _ => h.platform.smc = .refuse
  | .misalignedAccess _ => h.platform.misaligned = .fault
  | .unimplemented _ | .undefinedCsr _ => n = 32

/-- A load or store that is not valid. -/
theorem Hart.someInvalid_of_access {h : Hart n} {kind : AccessKind} {a width : Nat}
    (hkind : kind = .load ∨ kind = .store) (ha : a < 2 ^ n) (hw : width ∈ [1, 2, n / 8])
    (hv : ¬ h.platform.valid kind a width = true) : h.SomeInvalid := by
  rw [Bool.not_eq_true] at hv
  rcases hkind with rfl | rfl
  · exact ⟨a, ha, .inr ⟨width, hw, .inl hv⟩⟩
  · exact ⟨a, ha, .inr ⟨width, hw, .inr hv⟩⟩

/-- A split access faults only where one of its bytes is not valid. -/
theorem Hart.checkBytes_permits (h : Hart n) {kind : AccessKind} (hkind : kind = .load ∨ kind = .store) {f : Fault}
    (k : Nat) : ∀ addr : BitVec n, h.checkBytes kind addr k = some f → h.Permits f := by
  induction k with
  | zero => exact fun _ hf => by cases hf
  | succ k ih =>
    intro addr hf
    rw [Hart.checkBytes] at hf
    split at hf
    · exact ih _ hf
    · rename_i hv
      cases hf
      exact Hart.someInvalid_of_access hkind addr.isLt (by simp) hv

/-- A load or store enters only permitted faults. -/
theorem Hart.checkAccess_permits (h : Hart n) {kind : AccessKind} (hkind : kind = .load ∨ kind = .store)
    {addr : BitVec n} {width : Nat} (hw : width ∈ [1, 2, n / 8]) {f : Fault}
    (hf : h.checkAccess kind addr width = some f) : h.Permits f := by
  rw [Hart.checkAccess] at hf
  split at hf
  · split at hf
    · cases hf
    · rename_i hv
      cases hf
      exact Hart.someInvalid_of_access hkind addr.isLt hw hv
  · split at hf
    · rename_i hm
      cases hf
      exact hm
    · exact h.checkBytes_permits hkind _ _ hf

/-- A fetch enters only permitted faults. -/
theorem Hart.checkFetch_permits (h : Hart n) {f : Fault} (hf : h.checkFetch = some f) : h.Permits f := by
  by_cases hp : h.pc.toNat % ilen n = 0
  swap
  · cases (h.checkFetch_misaligned hp).symm.trans hf
    trivial
  cases hv : h.platform.valid .fetch h.pc.toNat (ilen n)
  · cases (h.checkFetch_invalid hp hv).symm.trans hf
    exact ⟨_, h.pc.isLt, .inl hv⟩
  cases hs : h.platform.smc with
  | coherent => cases (h.checkFetch_coherent hp hv hs).symm.trans hf
  | refuse =>
    simp only [Hart.checkFetch, hp, hv, hs, if_true, Option.ite_none_right_eq_some, Option.some.injEq] at hf
    obtain ⟨-, rfl⟩ := hf
    exact hs

/-! ### What instructions do to the fault of their hart -/

/-- `g` is `h` completed, its fault as before, or `h` in a fault its platform permits and otherwise as it was. -/
def Hart.CompletesOrFaults (h g : Hart n) : Prop :=
  g.fault = h.fault ∨ ∃ f, g = h.raise f ∧ h.Permits f

theorem Hart.completesOrFaults_raise (h : Hart n) {f : Fault} (hf : h.Permits f) :
    h.CompletesOrFaults (h.raise f) := .inr ⟨f, rfl, hf⟩

theorem Hart.completesOrFaults_writeNext (h : Hart n) (rd : Fin n) (v : BitVec n) :
    h.CompletesOrFaults (h.writeNext rd v) := .inl (h.writeNext_fault rd v)

theorem Hart.completesOrFaults_link (h : Hart n) (rd : Fin n) (t : BitVec n) : h.CompletesOrFaults (h.link rd t) :=
  .inl (h.link_fault rd t)

theorem Hart.completesOrFaults_linkAligned (h : Hart n) (rd : Fin n) (t : BitVec n) :
    h.CompletesOrFaults (h.linkAligned rd t) := by
  unfold Hart.linkAligned
  split
  · exact h.completesOrFaults_link rd t
  · exact h.completesOrFaults_raise trivial

theorem Hart.completesOrFaults_shiftNext (h : Hart 16) (rd : Reg16) (v : Option Word16) :
    h.CompletesOrFaults (h.shiftNext rd v) := by
  cases v with
  | some v => exact h.completesOrFaults_writeNext rd v
  | none => exact .inl (h.drawNext_fault rd)

theorem Hart.completesOrFaults_loadInto (h : Hart n) (rd : Fin n) (addr : BitVec n) {width : Nat}
    (hw : width ∈ [1, 2, n / 8]) (ext : BitVec (8 * width) → BitVec n) :
    h.CompletesOrFaults (h.loadInto rd addr width ext) := by
  rcases hc : h.checkAccess .load addr width with _ | f
  · obtain ⟨io, e⟩ := h.readData_eq addr width
    rw [Hart.loadInto_ok h rd addr width ext hc, e]
    exact .inl (Hart.writeNext_fault _ _ _)
  · rw [Hart.loadInto_fault h rd addr width ext f hc]
    exact h.completesOrFaults_raise (h.checkAccess_permits (.inl rfl) hw hc)

theorem Hart.completesOrFaults_storeFrom (h : Hart n) (v addr : BitVec n) {width : Nat} (hw : width ∈ [1, 2, n / 8]) :
    h.CompletesOrFaults (h.storeFrom v addr width) := by
  rcases hc : h.checkAccess .store addr width with _ | f
  · obtain ⟨io, e⟩ := h.writeData_eq v addr width
    obtain ⟨-, -, efault, -⟩ := Hart.writeBytes_frame (valueBytes v width) h addr
    rw [Hart.storeFrom_ok h v addr width hc, e]
    exact .inl efault
  · rw [Hart.storeFrom_fault h v addr width f hc]
    exact h.completesOrFaults_raise (h.checkAccess_permits (.inr rfl) hw hc)

/-! ### What instructions do to the state -/

/-- `t` is `s` after an RVL32 instruction that completed, or `s` in a permitted fault and otherwise as it was. -/
def State.CompletesOrFaults32 (s t : State) : Prop :=
  t.rvl32.fault = s.rvl32.fault ∨ ∃ f, Faulted32 s t f ∧ s.rvl32.Permits f

/-- The same of V16. -/
def State.CompletesOrFaults16 (s t : State) : Prop :=
  t.v16.fault = s.v16.fault ∨ ∃ f, Faulted16 s t f ∧ s.v16.Permits f

/-- A meaning that only replaces the RVL32 hart. -/
theorem State.next32_completesOrFaults (s : State) {g : Hart 32} (hg : s.rvl32.CompletesOrFaults g) :
    ∃ t, s.next32 g = .next t ∧ s.CompletesOrFaults32 t := by
  refine ⟨_, s.next32_eq g, hg.imp_right ?_⟩
  rintro ⟨f, rfl, hf⟩
  exact ⟨f, rfl, hf⟩

/-- A meaning that only replaces the V16 hart. -/
theorem State.next16_completesOrFaults (s : State) {g : Hart 16} (hg : s.v16.CompletesOrFaults g) :
    ∃ t, s.next16 g = .next t ∧ s.CompletesOrFaults16 t := by
  refine ⟨_, s.next16_eq g, hg.imp_right ?_⟩
  rintro ⟨f, rfl, hf⟩
  exact ⟨f, rfl, hf⟩

/-- A CSR access faults only where there is no CSR (10_state.md R31). -/
theorem State.csrAccess_completesOrFaults (s : State) (rd : Reg32) (c : BitVec 6) (new : Word32 → Word32) :
    ∃ t, s.csrAccess rd c new = .next t ∧ s.CompletesOrFaults32 t := by
  cases hc : s.csr c with
  | absent => exact ⟨_, s.csrAccess_absent rd c new hc, .inr ⟨_, rfl, rfl⟩⟩
  | storage old => exact ⟨_, s.csrAccess_storage rd c new old hc, .inl (Hart.writeNext_fault _ _ _)⟩
  | supplied v read effect =>
    obtain ⟨csrs, e, -⟩ := s.csrAccess_supplied rd c new v read effect hc
    exact ⟨_, e, .inl (Hart.writeNext_fault _ _ _)⟩
  | external => exact ⟨_, s.csrAccess_external rd c new hc, .inl (Hart.writeNext_fault _ _ _)⟩

/-- Every RVL32 instruction answers a next state, completed or in a permitted fault. -/
theorem exec_completesOrFaults32 {i : Instr} (hi : i.isa = .rvl32) (s : State) :
    ∃ t, exec i s = .next t ∧ s.CompletesOrFaults32 t := by
  cases i <;> cases hi
  case fence | fenceI | ecall | ebreak => exact s.next32_completesOrFaults (Hart.completesOrFaults_raise _ rfl)
  case wfi => exact ⟨_, rfl, .inl rfl⟩
  case csrrw | csrrs | csrrc | csrrwi | csrrsi | csrrci => exact s.csrAccess_completesOrFaults _ _ _
  case beq | bne | blt | bge | bltu | bgeu => exact s.next32_completesOrFaults (.inl rfl)
  case jal => exact s.next32_completesOrFaults (Hart.completesOrFaults_link _ _ _)
  case jalr => exact s.next32_completesOrFaults (Hart.completesOrFaults_linkAligned _ _ _)
  case lb | lh | lw | lbu | lhu => exact s.next32_completesOrFaults (Hart.completesOrFaults_loadInto _ _ _ (by simp) _)
  case sb | sh | sw => exact s.next32_completesOrFaults (Hart.completesOrFaults_storeFrom _ _ _ (by simp))
  all_goals exact s.next32_completesOrFaults (Hart.completesOrFaults_writeNext _ _ _)

/-- Every V16 instruction answers a next state, completed or in a permitted fault. -/
theorem exec_completesOrFaults16 {i : Instr} (hi : i.isa = .v16) (s : State) :
    ∃ t, exec i s = .next t ∧ s.CompletesOrFaults16 t := by
  cases i <;> cases hi
  case v16Free0 | v16Free1 | v16Free3 | v16Free8 | v16Free9 | v16Free10 | v16Free15 =>
    exact s.next16_completesOrFaults (Hart.completesOrFaults_raise _ trivial)
  case v16IfEq | v16IfNe | v16IfLt | v16IfGe | v16IfLtu | v16IfGeu => exact s.next16_completesOrFaults (.inl rfl)
  case v16Jal => exact s.next16_completesOrFaults (Hart.completesOrFaults_link _ _ _)
  case v16Jalr => exact s.next16_completesOrFaults (Hart.completesOrFaults_linkAligned _ _ _)
  case v16Lw | v16Lb => exact s.next16_completesOrFaults (Hart.completesOrFaults_loadInto _ _ _ (by simp) _)
  case v16Sw | v16Sb => exact s.next16_completesOrFaults (Hart.completesOrFaults_storeFrom _ _ _ (by simp))
  case v16Srl | v16Sra => exact s.next16_completesOrFaults (Hart.completesOrFaults_shiftNext _ _ _)
  all_goals exact s.next16_completesOrFaults (Hart.completesOrFaults_writeNext _ _ _)

/-! ### What a step does to the state -/

/-- `g` is `h` in a permitted fault and otherwise as it was, but for the model's own record of what a fetch of device bytes
drew and handed over (log 25). -/
def Hart.Enters (h g : Hart n) : Prop :=
  ∃ f draws io, g = { h with fault := some f, draws := draws, io := io } ∧ h.Permits f

/-- A fetch that answers changes the free values drawn and the record of accesses alone. -/
theorem Hart.eq_of_fetch {h g : Hart n} {w : BitVec n} (e : h.fetch = .ok (w, g)) :
    ∃ draws io, g = { h with draws := draws, io := io } := by
  obtain ⟨hr, hp, hm, hs, hf, hplatform⟩ := Hart.fetch_frame h g w e
  exact ⟨g.draws, g.io, by simp only [← hr, ← hp, ← hm, ← hs, ← hf, ← hplatform]⟩

/-- A fetch that does not answer has a permitted fault. -/
theorem Hart.permits_of_fetch {h : Hart n} {f : Fault} (e : h.fetch = .error f) : h.Permits f := by
  rcases hc : h.checkFetch with _ | f'
  · cases (h.fetch_ok hc).symm.trans e
  · cases (h.fetch_fault f' hc).symm.trans e
    exact h.checkFetch_permits hc

/-- A stuck machine stays as it is (60_exceptions.md R301). -/
theorem step_eq_self {s : State} (hf : s.faultNow ≠ none) : step s = .next s := by
  rw [State.faultNow] at hf
  cases hi : s.isa with
  | rvl32 =>
    rw [hi] at hf
    simp [step, hi, State.step32, Option.isSome_iff_ne_none.2 hf]
  | v16 =>
    rw [hi] at hf
    simp [step, hi, State.step16, Option.isSome_iff_ne_none.2 hf]

/-- A step of RVL32 that is not stuck completes, or enters a permitted fault and leaves the rest. -/
theorem step_completesOrEnters32 {s : State} (hi : s.isa = .rvl32) (hf : s.rvl32.fault = none) :
    ∃ t, step s = .next t ∧ (t.rvl32.fault = none ∨ ∃ g, s.rvl32.Enters g ∧ t = { s with rvl32 := g }) := by
  by_cases hw : s.waiting = true
  · obtain ⟨wake, waiting, e⟩ := s.waitStep_eq
    exact ⟨_, step_eq_waitStep hi hf hw, .inl (by rw [e]; exact hf)⟩
  · rw [step_eq_run32 hi hf (by simpa using hw), State.run32]
    rcases hfetch : s.rvl32.fetch with f | ⟨w, g⟩
    · exact ⟨_, rfl, .inr ⟨_, ⟨f, _, _, rfl, Hart.permits_of_fetch hfetch⟩, rfl⟩⟩
    · obtain ⟨draws, io, rfl⟩ := Hart.eq_of_fetch hfetch
      rcases hd : decode (.rvl32 w) with r | i <;> simp only [hd]
      · exact ⟨_, rfl, .inr ⟨_, ⟨.illegalInstruction w.toNat, draws, io, rfl, trivial⟩, rfl⟩⟩
      · obtain ⟨t, ht, hdone | ⟨f, hfaulted, hpermits⟩⟩ := exec_completesOrFaults32 (decode_isa32 w i hd)
          { s with rvl32 := { s.rvl32 with draws := draws, io := io } }
        · exact ⟨t, ht, .inl (hdone.trans hf)⟩
        · exact ⟨t, ht, .inr ⟨_, ⟨f, draws, io, rfl, hpermits⟩, hfaulted⟩⟩

/-- A step of V16 that is not stuck completes, or enters a permitted fault and leaves the rest. -/
theorem step_completesOrEnters16 {s : State} (hi : s.isa = .v16) (hf : s.v16.fault = none) :
    ∃ t, step s = .next t ∧ (t.v16.fault = none ∨ ∃ g, s.v16.Enters g ∧ t = { s with v16 := g }) := by
  rw [step_eq_run16 hi hf, State.run16]
  rcases hfetch : s.v16.fetch with f | ⟨w, g⟩
  · exact ⟨_, rfl, .inr ⟨_, ⟨f, _, _, rfl, Hart.permits_of_fetch hfetch⟩, rfl⟩⟩
  · obtain ⟨draws, io, rfl⟩ := Hart.eq_of_fetch hfetch
    obtain ⟨t, ht, hdone | ⟨f, hfaulted, hpermits⟩⟩ := exec_completesOrFaults16 (decode_isa16 w _ rfl)
      { s with v16 := { s.v16 with draws := draws, io := io } }
    · exact ⟨t, ht, .inl (hdone.trans hf)⟩
    · exact ⟨t, ht, .inr ⟨_, ⟨f, draws, io, rfl, hpermits⟩, hfaulted⟩⟩

/-! ### The statements -/

/-- Settles O10: a stuck machine answers its own state, the other steps complete or enter a fault. -/
theorem everyStepAnswersNext : Obligations.EveryStepAnswersNext := by
  intro s
  by_cases hf : s.faultNow = none
  · cases hi : s.isa with
    | rvl32 =>
      obtain ⟨t, ht, -⟩ := step_completesOrEnters32 hi (by simpa [State.faultNow, hi] using hf)
      exact ⟨t, ht⟩
    | v16 =>
      obtain ⟨t, ht, -⟩ := step_completesOrEnters16 hi (by simpa [State.faultNow, hi] using hf)
      exact ⟨t, ht⟩
  · exact ⟨s, step_eq_self hf⟩

/-- A step of RVL32 into the terminal fault enters it and leaves the rest. -/
theorem enters_of_step32 {s t : State} (hi : s.isa = .rvl32) (hf : s.rvl32.fault = none) (h : step s = .next t)
    (ht : t.rvl32.fault ≠ none) : ∃ g, s.rvl32.Enters g ∧ t = { s with rvl32 := g } := by
  obtain ⟨t', h', hcases⟩ := step_completesOrEnters32 hi hf
  cases h.symm.trans h'
  exact hcases.resolve_left ht

/-- A step of V16 into the terminal fault enters it and leaves the rest. -/
theorem enters_of_step16 {s t : State} (hi : s.isa = .v16) (hf : s.v16.fault = none) (h : step s = .next t)
    (ht : t.v16.fault ≠ none) : ∃ g, s.v16.Enters g ∧ t = { s with v16 := g } := by
  obtain ⟨t', h', hcases⟩ := step_completesOrEnters16 hi hf
  cases h.symm.trans h'
  exact hcases.resolve_left ht

/-- No step changes the selected machine (00_scope.md R1; log 1). -/
theorem step_isa {s t : State} (h : step s = .next t) : t.isa = s.isa := by
  obtain ⟨step32, step16, -⟩ := machinesAreSeparate
  cases hi : s.isa with
  | rvl32 =>
    obtain ⟨hisa, -⟩ := step32 s t hi h
    exact hisa.trans hi
  | v16 =>
    obtain ⟨hisa, -⟩ := step16 s t hi h
    exact hisa.trans hi

/-- Settles O11: a step that enters the fault is a `Hart.Enters` of its own machine's hart. -/
theorem terminalFault : Obligations.TerminalFault := by
  refine ⟨fun s => step_eq_self, fun s t h hf ht => ?_⟩
  rw [State.faultNow] at hf ht
  rw [step_isa h] at ht
  cases hi : s.isa with
  | rvl32 =>
    rw [hi] at hf ht
    obtain ⟨_, ⟨f, draws, io, rfl, -⟩, rfl⟩ := enters_of_step32 hi hf h ht
    exact ⟨rfl, rfl, rfl, rfl, rfl, rfl, rfl, rfl, rfl, rfl⟩
  | v16 =>
    rw [hi] at hf ht
    obtain ⟨_, ⟨f, draws, io, rfl, -⟩, rfl⟩ := enters_of_step16 hi hf h ht
    exact ⟨rfl, rfl, rfl, rfl, rfl, rfl, rfl, rfl, rfl, rfl⟩

/-- A hart enters no fault but one its platform permits. -/
theorem Hart.Enters.permits {h g : Hart n} (e : h.Enters g) {f : Fault} (hf : g.fault = some f) :
    h.Permits f := by
  obtain ⟨f', draws, io, rfl, hpermits⟩ := e
  cases hf
  exact hpermits

/-- A step of RVL32 that is not stuck faults only as its platform permits. -/
theorem permits_of_step32 {s t : State} (hi : s.isa = .rvl32) (hf : s.rvl32.fault = none) (h : step s = .next t)
    {f : Fault} (ht : t.rvl32.fault = some f) : s.rvl32.Permits f := by
  obtain ⟨g, hg, rfl⟩ := enters_of_step32 hi hf h (by simp [ht])
  exact hg.permits ht

/-- A step of V16 that is not stuck faults only as its platform permits. -/
theorem permits_of_step16 {s t : State} (hi : s.isa = .v16) (hf : s.v16.fault = none) (h : step s = .next t)
    {f : Fault} (ht : t.v16.fault = some f) : s.v16.Permits f := by
  obtain ⟨g, hg, rfl⟩ := enters_of_step16 hi hf h (by simp [ht])
  exact hg.permits ht

/-- Where every access is valid, none is not. -/
theorem Hart.not_someInvalid {h : Hart n} (hvalid : ∀ a, a < 2 ^ n → h.platform.valid .fetch a (ilen n) = true ∧
    ∀ width ∈ [1, 2, n / 8], h.platform.valid .load a width = true ∧ h.platform.valid .store a width = true) :
    ¬ h.SomeInvalid := by
  rintro ⟨a, ha, hinvalid⟩
  obtain ⟨hfetch, hdata⟩ := hvalid a ha
  rcases hinvalid with hnot | ⟨width, hw, hnot⟩
  · cases hfetch.symm.trans hnot
  · obtain ⟨hload, hstore⟩ := hdata width hw
    rcases hnot with hnot | hnot
    · cases hload.symm.trans hnot
    · cases hstore.symm.trans hnot

/-- Settles O23: each clause is a fault that the platform does not permit. -/
theorem faultsRuledOut : Obligations.FaultsRuledOut := by
  refine ⟨fun s t hi hf h => ?_, fun s t hi hf h => ?_⟩
  · refine ⟨fun hm a ht => ?_, fun hs a ht => ?_, fun hv a ht => ?_⟩
    · cases hm.symm.trans (permits_of_step32 hi hf h ht)
    · cases hs.symm.trans (permits_of_step32 hi hf h ht)
    · exact Hart.not_someInvalid hv (permits_of_step32 hi hf h ht)
  · refine ⟨fun hm a ht => ?_, fun hs a ht => ?_, fun hv a ht => ?_, fun w ht => ?_, fun c ht => ?_⟩
    · cases hm.symm.trans (permits_of_step16 hi hf h ht)
    · cases hs.symm.trans (permits_of_step16 hi hf h ht)
    · refine Hart.not_someInvalid (n := 16) (fun a ha => ⟨(hv a ha).1, fun width hw => (hv a ha).2 width ?_⟩)
        (permits_of_step16 hi hf h ht)
      simpa using hw
    · exact absurd (permits_of_step16 hi hf h ht) (by simp [Hart.Permits])
    · exact absurd (permits_of_step16 hi hf h ht) (by simp [Hart.Permits])

/-- Settles O16: the two instruction lengths are 4 and 2. -/
theorem startMeetsInvariant : Obligations.StartMeetsInvariant := State.inv_start

end Sys2Proof.Machine

/-! V16 arithmetic, logic, shifts and constants (48_v16_alu.md R240 to R253): each operation on words as the one on the
numbers they hold, then each instruction as a register write. -/

namespace Sys2Proof.Machine

/-! ### Bytes of a word -/

/-- The low byte of a word is its remainder by 256 (00_scope.md R12). -/
@[simp] theorem toNat_lowByte (v : Word16) : (lowByte v).toNat = v.toNat % 256 := by
  rw [lowByte, BitVec.extractLsb'_toNat, Nat.shiftRight_zero]

/-- The high byte of a word is its quotient by 256 (00_scope.md R12). -/
@[simp] theorem toNat_highByte (v : Word16) : (highByte v).toNat = v.toNat / 256 := by
  rw [highByte, BitVec.extractLsb'_toNat, Nat.shiftRight_eq_div_pow]
  omega

/-- Two bytes put together, as the word of their number. -/
theorem append_bytes_eq (hi lo : Byte) : hi ++ lo = BitVec.ofNat 16 (hi.toNat * 256 + lo.toNat) := by
  apply BitVec.eq_of_toNat_eq
  rw [toNat_append_byte, BitVec.toNat_ofNat]
  omega

/-- The bytes of a word exchanged (48_v16_alu.md R247). -/
theorem swapBytes_eq (v : Word16) :
    lowByte v ++ highByte v = BitVec.ofNat 16 (v.toNat % 256 * 256 + v.toNat / 256) := by
  rw [append_bytes_eq, toNat_lowByte, toNat_highByte]

/-- A byte above the low byte of a word (48_v16_alu.md R251). -/
theorem append_lowByte_eq (hi : Byte) (v : Word16) :
    hi ++ lowByte v = BitVec.ofNat 16 (hi.toNat * 256 + v.toNat % 256) := by
  rw [append_bytes_eq, toNat_lowByte]

/-! ### The immediate of ADDI -/

/-- The signed reading adds the signed number of the field (48_v16_alu.md R253). -/
theorem add_imm3Value_signed (v : Word16) (imm3 : BitVec 3) :
    v + imm3Value true imm3 = BitVec.ofInt 16 (v.toInt + imm3.toInt) := by
  have himm : (imm3.signExtend 16).toInt = imm3.toInt := BitVec.toInt_signExtend_of_le (by decide)
  rw [imm3Value, if_pos rfl, add_eq_ofInt, himm]

/-- The unsigned reading adds the number of the field. -/
theorem add_imm3Value_unsigned (v : Word16) (imm3 : BitVec 3) :
    v + imm3Value false imm3 = BitVec.ofNat 16 (v.toNat + imm3.toNat) := by
  rw [imm3Value, if_neg Bool.false_ne_true, ← BitVec.ofNat_toNat, add_ofNat_eq]

/-- A field of 0 to 3 has the sign bit clear, and means the same under both readings. -/
theorem imm3Value_of_lt {imm3 : BitVec 3} (h : imm3.toNat < 4) (signed : Bool) :
    imm3Value signed imm3 = imm3Value false imm3 := by
  have hmsb : imm3.msb = false := by rw [BitVec.msb_eq_false_iff_two_mul_lt]; omega
  cases signed
  · rfl
  · rw [imm3Value, imm3Value, if_pos rfl, if_neg Bool.false_ne_true, BitVec.signExtend_eq_setWidth_of_msb_false hmsb]

/-! ### Shifts by a signed amount -/

section Shifts

variable {a amount : Word16}

theorem shiftLogical_right (h0 : 0 ≤ amount.toInt) (h15 : amount.toInt ≤ 15) :
    shiftLogical a amount = some (BitVec.ofNat 16 (a.toNat / 2 ^ amount.toInt.toNat)) := by
  rw [← ushiftRight_eq_ofNat]
  exact if_pos ⟨h0, h15⟩

theorem shiftArithmetic_right (h0 : 0 ≤ amount.toInt) (h15 : amount.toInt ≤ 15) :
    shiftArithmetic a amount = some (BitVec.ofInt 16 (a.toInt / 2 ^ amount.toInt.toNat)) := by
  rw [← sshiftRight_eq_ofInt]
  exact if_pos ⟨h0, h15⟩

theorem shiftLogical_left (h15 : -15 ≤ amount.toInt) (h0 : amount.toInt < 0) :
    shiftLogical a amount = some (BitVec.ofNat 16 (a.toNat * 2 ^ (-amount.toInt).toNat)) := by
  rw [← shiftLeft_eq_ofNat]
  exact (if_neg (by omega)).trans (if_pos ⟨h15, h0⟩)

/-- The places that a left shift by `m` frees, filled with copies of bit 0 (48_v16_alu.md R246). -/
theorem shiftLeft_or_fill_eq (a : Word16) (m : Nat) :
    a <<< m ||| (if a.getLsbD 0 then BitVec.ofNat 16 (2 ^ m - 1) else 0#16) =
      BitVec.ofNat 16 (a.toNat * 2 ^ m + if a.toNat % 2 = 1 then 2 ^ m - 1 else 0) := by
  have hbit : a.getLsbD 0 = decide (a.toNat % 2 = 1) := Nat.testBit_zero _
  have hfill : 2 ^ m - 1 < 2 ^ m := Nat.sub_lt (by positivity) Nat.one_pos
  by_cases hodd : a.toNat % 2 = 1
  · rw [hbit, decide_eq_true hodd, if_pos rfl, if_pos hodd, shiftLeft_eq_ofNat, ← BitVec.ofNat_or, ← Nat.shiftLeft_eq,
      Nat.shiftLeft_add_eq_or_of_lt hfill]
  · rw [hbit, decide_eq_false hodd, if_neg Bool.false_ne_true, if_neg hodd, BitVec.or_zero, shiftLeft_eq_ofNat,
      Nat.add_zero]

theorem shiftArithmetic_left (h15 : -15 ≤ amount.toInt) (h0 : amount.toInt < 0) :
    shiftArithmetic a amount = some (BitVec.ofNat 16 (a.toNat * 2 ^ (-amount.toInt).toNat +
      if a.toNat % 2 = 1 then 2 ^ (-amount.toInt).toNat - 1 else 0)) := by
  rw [← shiftLeft_or_fill_eq]
  exact (if_neg (by omega)).trans (if_pos ⟨h15, h0⟩)

/-- No value is stated for any other amount (48_v16_alu.md R245). -/
theorem shiftLogical_other (h : amount.toInt < -15 ∨ 15 < amount.toInt) : shiftLogical a amount = none :=
  (if_neg (by omega)).trans (if_neg (by omega))

theorem shiftArithmetic_other (h : amount.toInt < -15 ∨ 15 < amount.toInt) : shiftArithmetic a amount = none :=
  (if_neg (by omega)).trans (if_neg (by omega))

end Shifts

/-- A shift whose result is stated writes it. -/
theorem next16_shiftNext_some {s : State} (rd : Reg16) {result : Option Word16} {v : Word16} (h : result = some v) :
    ∃ t, s.next16 (s.v16.shiftNext rd result) = .next t ∧ Wrote16 s t rd v (s.v16.pc + 2#16) := by
  subst h
  exact ⟨_, rfl, wrote16_writeNext s rd rfl⟩

/-- A shift whose result is not stated writes a free value, drawn once (log 8). -/
theorem next16_shiftNext_none {s : State} (rd : Reg16) {result : Option Word16} (h : result = none) :
    ∃ t, s.next16 (s.v16.shiftNext rd result) = .next t ∧
      (rd ≠ 0 → t.v16.x rd = Config.unspecified 16 s.v16.draws 16) ∧
      t.v16.draws = s.v16.draws + 1 ∧ t.v16.pc = s.v16.pc + 2#16 ∧ s.v16.SameRegsBut t.v16 (some rd) ∧
      s.v16.SameMemory t.v16 ∧ t.v16.stored = s.v16.stored ∧ t.v16.fault = s.v16.fault ∧
      t.v16.platform = s.v16.platform ∧ t.v16.io = s.v16.io ∧ s.SameAround16 t := by
  subst h
  obtain ⟨hx, hpc, hregs, hmem, ⟨hstored, hfault, hplatform, hdraws, hio⟩, haround⟩ :=
    wrote16_writeNext { s with v16 := { s.v16 with draws := s.v16.draws + 1 } } rd
      (rfl : Config.unspecified 16 s.v16.draws 16 = _)
  exact ⟨_, rfl, fun hr => hx fun e => hr (Fin.ext e), hdraws, hpc, hregs, hmem, hstored, hfault, hplatform, hio,
    haround⟩

/-! ### The statements -/

/-- Settles O48: each writes a register and goes on. -/
theorem logicAndSumResults16 : Obligations.LogicAndSumResults16 := by
  intro s rd rs1 rs2 a b next
  have hnot : ~~~a = a ^^^ 0xFFFF#16 := BitVec.xor_allOnes.symm
  refine ⟨⟨_, rfl, ?and⟩, ⟨_, rfl, ?or⟩, ⟨_, rfl, ?xor⟩, ⟨_, rfl, ?not⟩, ⟨_, rfl, ?add⟩, ⟨_, rfl, ?sub⟩, _, rfl, ?swp⟩
  case and => exact wrote16_writeNext s rd rfl
  case or => exact wrote16_writeNext s rd rfl
  case xor => exact wrote16_writeNext s rd rfl
  case not => exact wrote16_writeNext s rd hnot
  case add => exact wrote16_writeNext s rd (BitVec.add_def a b)
  case sub => exact wrote16_writeNext s rd (sub_eq_ofInt a b)
  case swp => exact wrote16_writeNext s rd (swapBytes_eq a)

/-- Settles O49: each writes a register and goes on, LUI and AUIPC with a byte above the low byte of `x[rd]`. -/
theorem constantResults16 : Obligations.ConstantResults16 := by
  intro s rd imm8 low next
  have hauipc : (highByte s.v16.pc + imm8) ++ lowByte (s.v16.x rd) =
      BitVec.ofNat 16 ((s.v16.pc.toNat / 256 + imm8.toNat) % 256 * 256 + low) := by
    rw [append_lowByte_eq, BitVec.toNat_add, toNat_highByte]
  refine ⟨⟨_, rfl, ?li⟩, ⟨_, rfl, ?lui⟩, _, rfl, ?auipc⟩
  case li => exact wrote16_writeNext s rd rfl
  case lui => exact wrote16_writeNext s rd (append_lowByte_eq imm8 (s.v16.x rd))
  case auipc => exact wrote16_writeNext s rd hauipc

/-- Settles O50: ADDI writes a register and goes on, its operand by the setting or, for 0 to 3, by neither. -/
theorem addImmediateResults16 : Obligations.AddImmediateResults16 := by
  intro s rd rs1 imm3 a next
  refine ⟨fun hsigned => ⟨_, rfl, ?signed⟩, fun hunsigned => ⟨_, rfl, ?unsigned⟩, fun hsmall => ⟨_, rfl, ?small⟩⟩
  case signed => exact wrote16_writeNext s rd (by rw [hsigned]; exact add_imm3Value_signed a imm3)
  case unsigned => exact wrote16_writeNext s rd (by rw [hunsigned]; exact add_imm3Value_unsigned a imm3)
  case small => exact wrote16_writeNext s rd (by rw [imm3Value_of_lt hsmall]; exact add_imm3Value_unsigned a imm3)

/-- Settles O51: both directions have a stated result. -/
theorem shiftResults16 : Obligations.ShiftResults16 := by
  intro s rd rs1 rs2 a n m next
  refine ⟨fun h0 h15 => ⟨?_, ?_⟩, fun h15 h0 => ⟨?_, ?_⟩⟩
  · exact next16_shiftNext_some rd (shiftLogical_right h0 h15)
  · exact next16_shiftNext_some rd (shiftArithmetic_right h0 h15)
  · exact next16_shiftNext_some rd (shiftLogical_left h15 h0)
  · exact next16_shiftNext_some rd (shiftArithmetic_left h15 h0)

/-- Settles O52: no result is stated for either shift. -/
theorem shiftOutOfRange16 : Obligations.ShiftOutOfRange16 := by
  intro s rd rs1 rs2 h i hi
  simp only [List.mem_cons, List.not_mem_nil, or_false] at hi
  rcases hi with rfl | rfl
  · exact next16_shiftNext_none rd (shiftLogical_other h)
  · exact next16_shiftNext_none rd (shiftArithmetic_other h)

end Sys2Proof.Machine

/-! V16 control transfer, loads and stores (49_v16_control_memory.md R269 to R283), and the carry test made of an ADD and an
IFLTU (48_v16_alu.md R248). -/

namespace Sys2Proof.Machine

/-! ### Loads and stores of ordinary memory -/

theorem sb_mem_stores16 (rd rs1 : Reg16) (imm4 : BitVec 4) : (.v16Sb rd rs1 imm4, 1) ∈ stores16 rd rs1 imm4 := by
  simp [stores16]

/-- Settles O27: an aligned valid access is let through. -/
theorem loadResults16 : Obligations.LoadResults16 := by
  intro s rd rs1 imm4 h addr
  refine ⟨fun ok ho => ?lb, fun ok ho => ?lw⟩
  case lb => exact exec_load_ordinary16 (lb_mem_loads16 rd rs1 imm4 (h.byteAt addr)) (.inl ok) ho
  case lw => exact exec_load_ordinary16 (lw_mem_loads16 rd rs1 imm4 (h.byteAt addr)) (.inl ok) ho

/-- Settles O28, likewise. -/
theorem storeResults16 : Obligations.StoreResults16 := by
  intro s rd rs1 imm4 h addr hm
  refine ⟨fun ok ho => ?sb, fun ok ho => ?sw⟩
  case sb => exact exec_store_ordinary16 (sb_mem_stores16 rd rs1 imm4) hm (.inl ok) ho
  case sw => exact exec_store_ordinary16 (sw_mem_stores16 rd rs1 imm4) hm (.inl ok) ho

/-! ### Jumps -/

/-- JAL's offset added to a word (49_v16_control_memory.md R271). -/
theorem add_jalOffset16 (v : Word16) (imm8 : BitVec 8) :
    v + jalOffset16 imm8 = BitVec.ofInt 16 (v.toNat + 2 * imm8.toInt) := by
  rw [jalOffset16, signExtend_shiftLeft_eq, add_ofInt_eq]
  rfl

/-- To an even target, JALR is a link. -/
theorem exec_v16Jalr_aligned (s : State) (rd rs1 : Reg16) (h : (s.v16.x rs1).toNat % 2 = 0) :
    exec (.v16Jalr rd rs1) s = .next { s with v16 := s.v16.link rd (s.v16.x rs1) } :=
  congrArg s.next16 (Hart.linkAligned_aligned s.v16 rd _ h)

/-- To an odd target, JALR itself faults. -/
theorem exec_v16Jalr_misaligned (s : State) (rd rs1 : Reg16) (h : (s.v16.x rs1).toNat % 2 ≠ 0) :
    exec (.v16Jalr rd rs1) s = .next { s with v16 := s.v16.raise (.misalignedFetch (s.v16.x rs1).toNat) } :=
  congrArg s.next16 (Hart.linkAligned_misaligned s.v16 rd _ h)

/-- Settles O53: JAL links to its scaled target, and JALR does where its target is even. -/
theorem jumpResults16 : Obligations.JumpResults16 := by
  refine ⟨fun s rd imm8 => ⟨_, rfl, wrote16_link s rd (add_jalOffset16 s.v16.pc imm8)⟩, fun s rd rs1 => ⟨?_, ?_⟩⟩
  · exact fun heven => ⟨_, exec_v16Jalr_aligned s rd rs1 heven, wrote16_link s rd rfl⟩
  · exact fun hodd => ⟨_, exec_v16Jalr_misaligned s rd rs1 hodd, rfl⟩

/-! ### IFxxx -/

section Moves

variable {s : State} {c : Cond} {rd rs1 : Reg16} {p : Prop} [Decidable p]

/-- An IFxxx whose comparison means `p` goes on when `p` holds, else past the next instruction
(49_v16_control_memory.md R269). -/
theorem moved16_ifNext_if (hc : c.holds (s.v16.x rd) (s.v16.x rs1) ↔ p) :
    Moved16 s { s with v16 := s.v16.ifNext c rd rs1 } (if p then s.v16.pc + 2#16 else s.v16.pc + 4#16) :=
  moved16_jump s (if_congr hc rfl (BitVec.add_assoc s.v16.pc 2#16 2#16))

/-- An IFxxx whose comparison means that `p` fails goes on unless `p` holds. -/
theorem moved16_ifNext_unless (hc : c.holds (s.v16.x rd) (s.v16.x rs1) ↔ ¬ p) :
    Moved16 s { s with v16 := s.v16.ifNext c rd rs1 } (if p then s.v16.pc + 4#16 else s.v16.pc + 2#16) := by
  rw [← ite_not]
  exact moved16_ifNext_if hc

end Moves

/-- Settles O54: each comparison is a condition on the two numbers or its failure. -/
theorem conditionalSkip16 : Obligations.ConditionalSkip16 := by
  intro s rd rs1 a b next skip
  have hifeq := moved16_ifNext_if (Cond.holds_eq_iff a b)
  have hifne := moved16_ifNext_unless (Cond.holds_ne_iff a b)
  have hiflt := moved16_ifNext_if (Cond.holds_lt_iff a b)
  have hifge := moved16_ifNext_unless (Cond.holds_ge_iff a b)
  have hifltu := moved16_ifNext_if (Cond.holds_ltu_iff a b)
  have hifgeu := moved16_ifNext_unless (Cond.holds_geu_iff a b)
  exact ⟨⟨_, rfl, hifeq⟩, ⟨_, rfl, hifne⟩, ⟨_, rfl, hiflt⟩, ⟨_, rfl, hifge⟩, ⟨_, rfl, hifltu⟩, ⟨_, rfl, hifgeu⟩⟩

/-! ### The carry test -/

/-- A sum that wraps is smaller than either operand (48_v16_alu.md R248). -/
theorem toNat_add_lt_iff (a b : Word16) : (a + b).toNat < b.toNat ↔ 2 ^ 16 ≤ a.toNat + b.toNat := by
  rw [BitVec.toNat_add]
  omega

/-- An IFxxx goes on to the next instruction exactly when its comparison holds: its two ways differ. -/
theorem Hart.ifNext_pc_eq_iff (h : Hart 16) (c : Cond) (rd rs1 : Reg16) :
    (h.ifNext c rd rs1).pc = h.pc + 2#16 ↔ c.holds (h.x rd) (h.x rs1) := by
  by_cases hc : c.holds (h.x rd) (h.x rs1) <;> simp [Hart.ifNext, hc]

/-- Settles O56: after the ADD a0 holds the sum and a1 what it held. -/
theorem carryTest16 : Obligations.CarryTest16 := by
  intro s t u ht hu
  cases ht
  cases hu
  rw [Hart.ifNext_pc_eq_iff, Cond.holds_ltu_iff, Hart.x_writeNext, Hart.x_writeNext, Hart.x_setX_self _ _ _ (by decide),
    Hart.x_setX_of_ne _ _ _ _ (by decide), toNat_add_lt_iff]

end Sys2Proof.Machine

/-! Signed fields that stand for a multiple of a power of two (30_encoding.md R88, R105, R122), and instructions run one
after the other: what the pseudo-instructions of both machines are made of. -/

namespace Sys2Proof.Machine

variable {n : Nat}

/-! ### Scaled fields -/

/-- A number in a word's reach is the signed number of its word. -/
theorem toInt_ofInt_of_reach {q : Int} (hlow : -2 ^ n ≤ 2 * q) (hhigh : 2 * q < 2 ^ n) : (BitVec.ofInt n q).toInt = q := by
  rw [BitVec.toInt_ofInt]
  apply Int.bmod_eq_of_le_mul_two <;> push_cast <;> linarith

/-- A sign-extended field, scaled, has the scaled number where the word has room for it. -/
theorem toInt_signExtend_shiftLeft {m k : Nat} (x : BitVec m) (h : k + m ≤ n) :
    (x.signExtend n <<< k).toInt = 2 ^ k * x.toInt := by
  have hroom : (2 : Int) ^ k * 2 ^ m ≤ 2 ^ n := by
    rw [← pow_add]
    exact pow_le_pow_right₀ (by decide) h
  have hk : (0 : Int) < 2 ^ k := by positivity
  have hlow := mul_le_mul_of_nonneg_left (BitVec.le_two_mul_toInt (x := x)) hk.le
  have hhigh := mul_lt_mul_of_pos_left (BitVec.two_mul_toInt_lt (x := x)) hk
  rw [signExtend_shiftLeft_eq]
  exact toInt_ofInt_of_reach (by linarith) (by linarith)

/-- The field of a sign-extended and scaled field is that field. -/
theorem extract_signExtend_shiftLeft {m k : Nat} (x : BitVec m) (h : k + m ≤ n) :
    (x.signExtend n <<< k).extractLsb' k m = x := by
  apply BitVec.eq_of_getLsbD_eq
  intro i hi
  have hin : k + i < n := by omega
  simp [BitVec.getElem_signExtend, hi, hin]

/-- A word is its field, extended and scaled, exactly where its number is a multiple of the scale and in reach. -/
theorem signExtend_extract_shiftLeft_eq_iff {m k : Nat} (d : BitVec n) (h : k + m ≤ n) :
    (d.extractLsb' k m).signExtend n <<< k = d ↔
      d.toInt % 2 ^ k = 0 ∧ -2 ^ m ≤ 2 * (d.toInt / 2 ^ k) ∧ 2 * (d.toInt / 2 ^ k) < 2 ^ m := by
  have hk : (2 : Int) ^ k ≠ 0 := by positivity
  constructor
  · intro e
    have hd := toInt_signExtend_shiftLeft (d.extractLsb' k m) h
    rw [e] at hd
    rw [hd, Int.mul_emod_right, Int.mul_ediv_cancel_left _ hk]
    exact ⟨rfl, BitVec.le_two_mul_toInt, BitVec.two_mul_toInt_lt⟩
  · rintro ⟨hmultiple, hlow, hhigh⟩
    have hd : (BitVec.ofInt m (d.toInt / 2 ^ k)).signExtend n <<< k = d := by
      apply BitVec.eq_of_toInt_eq
      rw [toInt_signExtend_shiftLeft _ h, toInt_ofInt_of_reach hlow hhigh,
        Int.mul_ediv_cancel' (Int.dvd_of_emod_eq_zero hmultiple)]
    rw [← hd, extract_signExtend_shiftLeft _ h]

/-! ### Frames from one instruction to the next -/

theorem Hart.SameMemory.trans {h g k : Hart n} (a : h.SameMemory g) (b : g.SameMemory k) : h.SameMemory k :=
  fun x => (b x).trans (a x)

theorem Hart.SameRegsBut.trans {h g k : Hart n} {rd : Option (Fin n)} (a : h.SameRegsBut g rd)
    (b : g.SameRegsBut k rd) : h.SameRegsBut k rd :=
  fun r hr => (b r hr).trans (a r hr)

theorem Hart.SameHidden.trans {h g k : Hart n} (a : h.SameHidden g) (b : g.SameHidden k) : h.SameHidden k := by
  obtain ⟨as, af, ap, ad, ai⟩ := a
  obtain ⟨bs, bf, bp, bd, bi⟩ := b
  exact ⟨bs.trans as, bf.trans af, bp.trans ap, bd.trans ad, bi.trans ai⟩

theorem State.SameAround32.trans {s t u : State} (a : s.SameAround32 t) (b : t.SameAround32 u) : s.SameAround32 u := by
  obtain ⟨ai, ac, aw, ak, av, am⟩ := a
  obtain ⟨bi, bc, bw, bk, bv, bm⟩ := b
  exact ⟨bi.trans ai, bc.trans ac, bw.trans aw, bk.trans ak, bv.trans av, bm.trans am⟩

theorem State.SameAround16.trans {s t u : State} (a : s.SameAround16 t) (b : t.SameAround16 u) : s.SameAround16 u := by
  obtain ⟨ai, ar, ac, aw, ak, am⟩ := a
  obtain ⟨bi, br, bc, bw, bk, bm⟩ := b
  exact ⟨bi.trans ai, br.trans ar, bc.trans ac, bw.trans aw, bk.trans ak, bm.trans am⟩

/-- Of two writes to one register the second stands. -/
theorem Wrote32.trans {s t u : State} {rd : Reg32} {v v' pc pc' : Word32} (a : Wrote32 s t rd v pc)
    (b : Wrote32 t u rd v' pc') : Wrote32 s u rd v' pc' := by
  obtain ⟨-, -, aregs, amem, ahidden, aaround⟩ := a
  obtain ⟨bx, bpc, bregs, bmem, bhidden, baround⟩ := b
  exact ⟨bx, bpc, aregs.trans bregs, amem.trans bmem, ahidden.trans bhidden, aaround.trans baround⟩

/-- The same of V16. -/
theorem Wrote16.trans {s t u : State} {rd : Reg16} {v v' pc pc' : Word16} (a : Wrote16 s t rd v pc)
    (b : Wrote16 t u rd v' pc') : Wrote16 s u rd v' pc' := by
  obtain ⟨-, -, aregs, amem, ahidden, aaround⟩ := a
  obtain ⟨bx, bpc, bregs, bmem, bhidden, baround⟩ := b
  exact ⟨bx, bpc, aregs.trans bregs, amem.trans bmem, ahidden.trans bhidden, aaround.trans baround⟩

/-- The value written matters where the register is not x0. -/
theorem Wrote32.congr {s t : State} {rd : Reg32} {v v' pc pc' : Word32} (a : Wrote32 s t rd v pc)
    (hv : rd.val ≠ 0 → v = v') (hpc : pc = pc') : Wrote32 s t rd v' pc' := by
  obtain ⟨ax, apc, aframe⟩ := a
  exact ⟨fun hr => (ax hr).trans (hv hr), apc.trans hpc, aframe⟩

/-- A write to x0 only moves the pc. -/
theorem Wrote16.moved {s t : State} {v pc : Word16} (a : Wrote16 s t 0 v pc) : Moved16 s t pc := by
  obtain ⟨-, apc, aregs, aframe⟩ := a
  refine ⟨apc, fun r _ => aregs r ?_, aframe⟩
  by_cases hr : r = 0
  · exact .inr (congrArg Fin.val hr)
  · exact .inl fun e => hr (Option.some.inj e).symm

/-- Of two moves of the pc the second stands. -/
theorem Moved16.trans {s t u : State} {pc pc' : Word16} (a : Moved16 s t pc) (b : Moved16 t u pc') : Moved16 s u pc' := by
  obtain ⟨-, aregs, amem, ahidden, aaround⟩ := a
  obtain ⟨bpc, bregs, bmem, bhidden, baround⟩ := b
  exact ⟨bpc, aregs.trans bregs, amem.trans bmem, ahidden.trans bhidden, aaround.trans baround⟩

/-- One instruction by itself. -/
theorem execAll_one {i : Instr} {s t : State} (h : exec i s = .next t) : execAll [i] s = some t := by
  simp only [execAll, h]

/-- Two instructions, one after the other. -/
theorem execAll_two {i j : Instr} {s t u : State} (hi : exec i s = .next t) (hj : exec j t = .next u) :
    execAll [i, j] s = some u := by
  simp only [execAll, hi, hj]

end Sys2Proof.Machine

/-! RVL32's `li`, `la` and `call` (47_pseudo.md R231, R232, R235): a value is its rounded high part plus a low part that an
immediate of twelve bits holds. -/

namespace Sys2Proof.Machine

/-! ### The high and the low part of a value -/

/-- The high part is the value rounded to the nearest multiple of 4096 (47_pseudo.md R231). -/
theorem toNat_highPart (v : Word32) : (highPart v).toNat = (v.toNat + 0x800) % 2 ^ 32 / 4096 := by
  rw [highPart, BitVec.extractLsb'_toNat, Nat.shiftRight_eq_div_pow, BitVec.toNat_add, BitVec.toNat_ofNat]
  omega

/-- The high part as an operand of LUI and AUIPC. -/
theorem upperValue_highPart (v : Word32) :
    upperValue (highPart v) = BitVec.ofNat 32 ((v.toNat + 0x800) / 4096 * 4096) := by
  apply BitVec.eq_of_toNat_eq
  rw [upperValue_eq, toNat_highPart, BitVec.toNat_ofNat, BitVec.toNat_ofNat]
  omega

/-- The two parts make up the value. -/
theorem highPart_add_lowPart (v : Word32) : upperValue (highPart v) + lowPart v = v :=
  add_sub_cancel (upperValue (highPart v)) v

/-- The low part as a number, modulo the word's size. -/
theorem toNat_lowPart (v : Word32) :
    (lowPart v).toNat = (2 ^ 32 - (v.toNat + 0x800) / 4096 * 4096 % 2 ^ 32 + v.toNat) % 2 ^ 32 := by
  rw [lowPart, upperValue_highPart, BitVec.toNat_sub, BitVec.toNat_ofNat]

/-- The low part lies from -2048 to 2047 (47_pseudo.md R231). -/
theorem lowPart_bounds (v : Word32) : -2048 ≤ (lowPart v).toInt ∧ (lowPart v).toInt ≤ 2047 := by
  have hlow := toNat_lowPart v
  rw [BitVec.toInt_eq_toNat_cond]
  omega

/-- The low part is a multiple of 4 where the value is: the high part always is. -/
theorem lowPart_emod_four (v : Word32) : (lowPart v).toInt % 4 = v.toNat % 4 := by
  have hlow := toNat_lowPart v
  rw [BitVec.toInt_eq_toNat_cond]
  omega

/-- A value of -2048 to 2047 is the immediate of its low twelve bits. -/
theorem immValue_extract {v : Word32} (hlow : -2048 ≤ v.toInt) (hhigh : v.toInt ≤ 2047) :
    immValue (v.extractLsb' 0 12) = v := by
  have h := (signExtend_extract_shiftLeft_eq_iff (m := 12) (k := 0) v (by decide)).2 (by omega)
  rwa [BitVec.shiftLeft_zero] at h

/-- Such a value has no high part. -/
theorem highPart_eq_zero {v : Word32} (hlow : -2048 ≤ v.toInt) (hhigh : v.toInt ≤ 2047) : highPart v = 0#20 := by
  apply BitVec.eq_of_toNat_eq
  rw [BitVec.toInt_eq_toNat_cond] at hlow hhigh
  rw [toNat_highPart, BitVec.toNat_ofNat]
  omega

/-- The ADDI of an expansion adds the low part. -/
theorem add_immValue_lowPart (u v : Word32) :
    u + upperValue (highPart v) + immValue ((lowPart v).extractLsb' 0 12) = u + v := by
  obtain ⟨hlow, hhigh⟩ := lowPart_bounds v
  rw [immValue_extract hlow hhigh, BitVec.add_assoc, highPart_add_lowPart]

/-! ### `li` and `la` -/

/-- An instruction that writes `v` to `x[rd]`, then an ADDI to the same register, leave the sum there. -/
theorem execAll_addi {s : State} {i : Instr} {rd : Reg32} {v w : Word32} {imm12 : BitVec 12}
    (hi : exec i s = s.next32 (s.rvl32.writeNext rd v)) (hsum : v + immValue imm12 = w) :
    ∃ t, execAll [i, .addi rd rd imm12] s = some t ∧ Wrote32 s t rd w (s.rvl32.pc + 8#32) := by
  have hfirst := wrote32_writeNext s rd (rfl : v = v)
  have hsecond := wrote32_writeNext { s with rvl32 := s.rvl32.writeNext rd v } rd
    (rfl : (s.rvl32.writeNext rd v).x rd + immValue imm12 = _)
  obtain ⟨hx, hpc, -⟩ := id hfirst
  refine ⟨_, execAll_two hi rfl, (hfirst.trans hsecond).congr (fun hr => ?_) ?_⟩
  · exact (congrArg (· + immValue imm12) (hx hr)).trans hsum
  · exact (congrArg (· + 4#32) hpc).trans (BitVec.add_assoc s.rvl32.pc 4#32 4#32)

/-- Settles O57: LUI or AUIPC leaves the high part, the ADDI adds the low one; a short value is an immediate added to x0. -/
theorem loadConstantPseudo : Obligations.LoadConstantPseudo := by
  intro s rd v
  refine ⟨execAll_addi rfl ?li, lowPart_bounds v, fun hlow hhigh => ⟨highPart_eq_zero hlow hhigh, ?short⟩,
    execAll_addi rfl ?la⟩
  case li => simpa only [BitVec.zero_add] using add_immValue_lowPart 0#32 v
  case la => exact (add_immValue_lowPart s.rvl32.pc (v - s.rvl32.pc)).trans (add_sub_cancel s.rvl32.pc v)
  case short =>
    have himm := immValue_extract hlow hhigh
    have hsum : s.rvl32.x 0 + immValue (v.extractLsb' 0 12) = v := by
      rw [Hart.x_zero s.rvl32 0 rfl, himm, BitVec.zero_add]
    exact ⟨_, _, if_pos himm, execAll_one rfl, wrote32_writeNext s rd hsum⟩

/-! ### `call` -/

/-- The offset of a JALR field is four times its number (30_encoding.md R88). -/
theorem toInt_immOffset (imm12 : BitVec 12) : (immOffset imm12).toInt = 4 * imm12.toInt :=
  toInt_signExtend_shiftLeft imm12 (by decide)

/-- The low part of a multiple of 4 has a JALR field, a quarter of it (30_encoding.md R122). -/
theorem jalrField_lowPart {d : Word32} (h : d.toNat % 4 = 0) : ∃ f, jalrField (lowPart d) = some f ∧
    immOffset f = lowPart d ∧ -512 ≤ f.toInt ∧ f.toInt ≤ 511 := by
  obtain ⟨hlow, hhigh⟩ := lowPart_bounds d
  have hmod := lowPart_emod_four d
  have hfield : immOffset ((lowPart d).extractLsb' 2 12) = lowPart d :=
    (signExtend_extract_shiftLeft_eq_iff (m := 12) (k := 2) (lowPart d) (by decide)).2 (by omega)
  have hquarter := toInt_immOffset ((lowPart d).extractLsb' 2 12)
  rw [hfield] at hquarter
  exact ⟨_, if_pos hfield, hfield, by omega, by omega⟩

/-- The low part of any other distance has none. -/
theorem jalrField_lowPart_none {d : Word32} (h : d.toNat % 4 ≠ 0) : jalrField (lowPart d) = none := by
  refine if_neg fun hfield => ?_
  have hmod := lowPart_emod_four d
  obtain ⟨hmultiple, -⟩ :=
    (signExtend_extract_shiftLeft_eq_iff (m := 12) (k := 2) (lowPart d) (by decide)).1 hfield
  omega

/-- Two writes to different registers leave both values. -/
theorem Wrote32.then_wrote {s t u : State} {a b : Reg32} {v w pc pc' : Word32} (hab : a ≠ b) (first : Wrote32 s t a v pc)
    (second : Wrote32 t u b w pc') : (a.val ≠ 0 → u.rvl32.x a = v) ∧ (b.val ≠ 0 → u.rvl32.x b = w) ∧
      (∀ r, r ≠ a → r ≠ b → u.rvl32.x r = s.rvl32.x r) ∧ u.rvl32.pc = pc' ∧ s.rvl32.SameMemory u.rvl32 ∧
      s.rvl32.SameHidden u.rvl32 ∧ s.SameAround32 u := by
  obtain ⟨ax, -, aregs, amem, ahidden, aaround⟩ := first
  obtain ⟨bx, bpc, bregs, bmem, bhidden, baround⟩ := second
  have skipped {r q : Reg32} (hr : q ≠ r) : (some r : Option Reg32) ≠ some q := fun e => hr (Option.some.inj e).symm
  exact ⟨fun ha => (bregs a (.inl (skipped hab))).trans (ax ha), bx,
    fun r ha hb => (bregs r (.inl (skipped hb))).trans (aregs r (.inl (skipped ha))), bpc, amem.trans bmem,
    ahidden.trans bhidden, aaround.trans baround⟩

/-- Settles O58: AUIPC leaves the rounded address in x6, and JALR adds the low part and links to x1. -/
theorem callPseudo : Obligations.CallPseudo := by
  intro s symbol
  refine ⟨fun hd haligned => ?_, fun hd => ?_⟩
  · obtain ⟨f, hfield, hoffset, hlow, hhigh⟩ := jalrField_lowPart hd
    obtain ⟨t, hauipc, hfirst⟩ : ∃ t, exec (.auipc 6 (highPart (symbol - s.rvl32.pc))) s = .next t ∧
        Wrote32 s t 6 (s.rvl32.pc + upperValue (highPart (symbol - s.rvl32.pc))) (s.rvl32.pc + 4#32) :=
      ⟨_, rfl, wrote32_writeNext s 6 rfl⟩
    obtain ⟨hx6, hpc, -⟩ := id hfirst
    have htarget : t.rvl32.x 6 + immOffset f = symbol := by
      rw [hx6 (by decide), hoffset, BitVec.add_assoc, highPart_add_lowPart]
      exact add_sub_cancel s.rvl32.pc symbol
    have hjalr := exec_jalr_aligned t 1 6 f (by rwa [htarget])
    obtain ⟨u6, u1, uregs, upc, uframe⟩ := hfirst.then_wrote (by decide) (wrote32_link t 1 htarget)
    refine ⟨f, _, by rw [pseudoCall, hfield]; rfl, ⟨hlow, hhigh⟩, execAll_two hauipc hjalr, upc, ?_, ?_,
      fun r h1 h6 => uregs r h6 h1, uframe⟩
    · rw [u1 (by decide), hpc, BitVec.add_assoc]
      rfl
    · rw [u6 (by decide), upperValue_highPart]
  · rw [pseudoCall, jalrField_lowPart_none hd]
    rfl

end Sys2Proof.Machine

/-! V16's `li`, `la` and converted branch (49_v16_control_memory.md R286, R287). -/

namespace Sys2Proof.Machine

/-! ### Two bytes of a word -/

/-- The two bytes of a word make it up. -/
theorem highByte_append_lowByte (v : Word16) : highByte v ++ lowByte v = v := by
  apply BitVec.eq_of_toNat_eq
  rw [toNat_append_byte, toNat_highByte, toNat_lowByte]
  exact Nat.div_add_mod v.toNat 256

/-- LI leaves its byte in the low byte of the register. -/
theorem lowByte_imm8Value (b : Byte) : lowByte (imm8Value b) = b := by
  have h := extract_signExtend_shiftLeft (n := 16) (k := 0) b (by decide)
  rwa [BitVec.shiftLeft_zero] at h

/-- A word of -128 to 127 is the operand of an LI of its low byte. -/
theorem imm8Value_lowByte {v : Word16} (hlow : -128 ≤ v.toInt) (hhigh : v.toInt ≤ 127) :
    imm8Value (lowByte v) = v := by
  have h := (signExtend_extract_shiftLeft_eq_iff (m := 8) (k := 0) v (by decide)).2 (by omega)
  rwa [BitVec.shiftLeft_zero] at h

/-- The mask of the high byte (49_v16_control_memory.md R286). -/
theorem toNat_and_highMask (a : Word16) : (a &&& 0xFF00#16).toNat = a.toNat / 256 * 256 := by
  have hmask : a &&& 0xFF00#16 = highByte a ++ 0x00#8 :=
    calc a &&& 0xFF00#16 = (highByte a ++ lowByte a) &&& (BitVec.allOnes 8 ++ 0x00#8) := by
          rw [highByte_append_lowByte]
          rfl
      _ = highByte a ++ 0x00#8 := by rw [BitVec.and_append, BitVec.and_allOnes, BitVec.and_zero]
  rw [hmask, toNat_append_byte, toNat_highByte, BitVec.toNat_ofNat]
  omega

/-- The AUIPC of an expansion at `a` completes the symbol: its high byte is that of `a` plus that of the offset, its low
byte that of the offset. -/
theorem highByte_add_symbolOffset16 (a symbol : Word16) :
    (highByte a + highByte (symbolOffset16 a symbol)) ++ lowByte (symbolOffset16 a symbol) = symbol := by
  have hoffset : (symbolOffset16 a symbol).toNat = (2 ^ 16 - a.toNat / 256 * 256 + symbol.toNat) % 2 ^ 16 := by
    rw [symbolOffset16, BitVec.toNat_sub, toNat_and_highMask]
  apply BitVec.eq_of_toNat_eq
  rw [toNat_append_byte, BitVec.toNat_add, toNat_highByte, toNat_highByte, toNat_lowByte, hoffset]
  omega

/-! ### `li` and `la` -/

/-- An LI of `b`, then an instruction that puts a byte above the low byte of `x[rd]`, leave the two bytes there. -/
theorem execAll_li_then {s : State} {i : Instr} {rd : Reg16} {b : Byte} {hi : State → Byte} {w : Word16} (hrd : rd ≠ 0)
    (hexec : ∀ t, exec i t = t.next16 (t.v16.writeNext rd (hi t ++ lowByte (t.v16.x rd))))
    (hw : ∀ t, t.v16.pc = s.v16.pc + 2#16 → hi t ++ b = w) :
    ∃ t, execAll [.v16Li rd b, i] s = some t ∧ Wrote16 s t rd w (s.v16.pc + 4#16) := by
  obtain ⟨t, hli, hfirst⟩ : ∃ t, exec (.v16Li rd b) s = .next t ∧ Wrote16 s t rd (imm8Value b) (s.v16.pc + 2#16) :=
    ⟨_, rfl, wrote16_writeNext s rd rfl⟩
  obtain ⟨hx, hpc, -⟩ := id hfirst
  have hvalue : hi t ++ lowByte (t.v16.x rd) = w := by
    rw [hx fun e => hrd (Fin.ext e), lowByte_imm8Value, hw t hpc]
  have hsecond := hfirst.trans (wrote16_writeNext t rd hvalue)
  rw [hpc, BitVec.add_assoc] at hsecond
  exact ⟨_, execAll_two hli (hexec t), hsecond⟩

/-- Settles O59: the LI leaves the low byte, LUI or AUIPC puts the high byte above it. -/
theorem constants16Pseudo : Obligations.Constants16Pseudo := by
  intro s rd v hrd
  refine ⟨execAll_li_then hrd (fun _ => rfl) fun _ _ => highByte_append_lowByte v, fun hlow hhigh => ?short,
    execAll_li_then hrd (fun _ => rfl) fun t hpc => ?la⟩
  case short =>
    have himm := imm8Value_lowByte hlow hhigh
    exact ⟨_, _, if_pos himm, execAll_one rfl, wrote16_writeNext s rd himm⟩
  case la =>
    rw [hpc]
    exact highByte_add_symbolOffset16 (s.v16.pc + 2#16) v

/-! ### The converted branch -/

/-- An even distance of -256 to 254 has a JAL field (49_v16_control_memory.md R287). -/
theorem jalField16_eq_some {pc target : Word16} (h : (target - pc).toInt % 2 = 0 ∧ -256 ≤ (target - pc).toInt ∧
    (target - pc).toInt ≤ 254) : ∃ f, jalField16 pc target = some f ∧ pc + jalOffset16 f = target := by
  have hfield : jalOffset16 ((target - pc).extractLsb' 1 8) = target - pc :=
    (signExtend_extract_shiftLeft_eq_iff (m := 8) (k := 1) (target - pc) (by decide)).2 (by omega)
  refine ⟨_, if_pos hfield, ?_⟩
  rw [hfield]
  exact add_sub_cancel pc target

/-- No other distance has one. -/
theorem jalField16_eq_none {pc target : Word16} (h : ¬ ((target - pc).toInt % 2 = 0 ∧ -256 ≤ (target - pc).toInt ∧
    (target - pc).toInt ≤ 254)) : jalField16 pc target = none := by
  refine if_neg fun hfield => h ?_
  have hreach := (signExtend_extract_shiftLeft_eq_iff (m := 8) (k := 1) (target - pc) (by decide)).1 hfield
  omega

/-- The IFxxx of a comparison is that comparison's move of the pc. -/
theorem exec_ifInstr16 (c : Cond) (rd rs1 : Reg16) (s : State) :
    exec (ifInstr16 c rd rs1) s = .next { s with v16 := s.v16.ifNext c rd rs1 } := by
  cases c <;> rfl

/-- The six comparisons, each with its IFxxx and whether it holds of the numbers of two words. -/
def ifTable16 (rd rs1 : Reg16) (a b : Word16) : List (Cond × Instr × Bool) :=
  [(.eq, .v16IfEq rd rs1, decide (a.toNat = b.toNat)), (.ne, .v16IfNe rd rs1, decide (a.toNat ≠ b.toNat)),
    (.lt, .v16IfLt rd rs1, decide (a.toInt < b.toInt)), (.ge, .v16IfGe rd rs1, decide (b.toInt ≤ a.toInt)),
    (.ltu, .v16IfLtu rd rs1, decide (a.toNat < b.toNat)), (.geu, .v16IfGeu rd rs1, decide (b.toNat ≤ a.toNat))]

/-- Each row is of its comparison. -/
theorem eq_of_mem_ifTable16 {rd rs1 : Reg16} {a b : Word16} {cih : Cond × Instr × Bool}
    (h : cih ∈ ifTable16 rd rs1 a b) : cih.2.1 = ifInstr16 cih.1 rd rs1 ∧ cih.2.2 = cih.1.holds a b := by
  simp only [ifTable16, List.mem_cons, List.not_mem_nil, or_false] at h
  rcases h with rfl | rfl | rfl | rfl | rfl | rfl
  · exact ⟨rfl, decide_eq_decide.2 BitVec.toNat_inj⟩
  · exact ⟨rfl, decide_eq_decide.2 (not_congr BitVec.toNat_inj)⟩
  all_goals exact ⟨rfl, rfl⟩

/-- A JAL to x0 only jumps. -/
theorem exec_v16Jal_zero (s : State) {f : BitVec 8} {target : Word16} (h : s.v16.pc + jalOffset16 f = target) :
    ∃ t, exec (.v16Jal 0 f) s = .next t ∧ Moved16 s t target :=
  ⟨_, rfl, (wrote16_link s 0 h).moved⟩

/-- Settles O60: the IFxxx goes on to the JAL exactly when its comparison holds, and the JAL's field is the distance. -/
theorem branchConversion16 : Obligations.BranchConversion16 := by
  intro s rd rs1 label a b pc d cih hcih
  obtain ⟨hinstr, hholds⟩ := eq_of_mem_ifTable16 (a := a) (b := b) hcih
  rw [hinstr, hholds]
  refine ⟨fun heven hlow hhigh => ?_, fun hout => by rw [pseudoBranch16, jalField16_eq_none hout]; rfl⟩
  obtain ⟨f, hfield, htarget⟩ := jalField16_eq_some ⟨heven, hlow, hhigh⟩
  have hmove := moved16_ifNext_if (s := s) (c := cih.1) (rd := rd) (rs1 := rs1) Iff.rfl
  refine ⟨f, by rw [pseudoBranch16, hfield]; rfl, ⟨_, exec_ifInstr16 _ _ _ s, hmove⟩, fun hc => ?_⟩
  rw [if_pos hc] at hmove
  obtain ⟨hpc, -⟩ := id hmove
  obtain ⟨u, hjal, hjump⟩ := exec_v16Jal_zero _ ((congrArg (· + jalOffset16 f) hpc).trans htarget)
  exact ⟨u, execAll_two (exec_ifInstr16 _ _ _ s) hjal, hmove.trans hjump⟩

end Sys2Proof.Machine
